-- ==== Sys2Proof/Word.lean ====
section
/-!
DEFINITION. The words of the FB31: bytes, 16-bit values, clock values and station addresses.
-/

namespace Sys2Proof

/-- One byte on the host link or one character's data on the field line (R73, R153). -/
abbrev Byte := BitVec 8

/-- A 16-bit value: a tag, an identity type code, a counter (00_scope.md, Conventions). -/
abbrev Half := BitVec 16

/-- A value of the millisecond clock, 32 bits (R181). -/
abbrev Clock := BitVec 32

/-- A station address, 1 to 31 (R1). The element `i` stands for the address `i + 1`. -/
abbrev Addr := Fin 31

/-- The address a request or a call names: a station, or `none` for address 0, broadcast
(00_scope.md, Addresses). -/
abbrev Dest := Option Addr

end Sys2Proof
end

