-- ==== Sys2Proof/Syntax.lean ====
section
/-!
DEFINITION. The commands and events the FB31 takes, one constructor for each row of spec/opcode_table.json.
The table gives no operand fields: the operands are what the row's rule says arrives with the event (log 4, log 5, log 7).
-/

namespace Sys2Proof

/-- How the stop bit of a received character or byte was sampled (R74, R153).
`idle`: at the idle level, received without fault. `errorReturned`: away from the idle level, a framing
error, and the line is back at idle. `errorHeld`: a framing error, and the line stays away from idle. -/
inductive StopBit where
  | idle
  | errorReturned
  | errorHeld
  deriving DecidableEq, Repr

/-- A character received on LRX or a byte received on HRX, at the middle of its stop bit (R74, R153). -/
structure RxChar where
  data : Byte
  stop : StopBit
  deriving DecidableEq, Repr

/-- Which due time an event of the timetable concerns (R56): the next due of a station's entry, or the
anchor held by the exchange record. -/
inductive DueRef where
  | entry (a : Addr)
  | anchor
  deriving DecidableEq, Repr

/-- One constructor for each row of the table of operations and events. For the twenty host commands
`seq` is the sequence byte of the COMMAND frame and `params` the body after the command code (R196). -/
inductive Instr where
  -- host commands
  | identify (seq : Byte) (params : List Byte)
  | status (seq : Byte) (params : List Byte)
  | restart (seq : Byte) (params : List Byte)
  | linkSetup (seq : Byte) (params : List Byte)
  | fallbackSet (seq : Byte) (params : List Byte)
  | lineSetup (seq : Byte) (params : List Byte)
  | lineStart (seq : Byte) (params : List Byte)
  | lineStop (seq : Byte) (params : List Byte)
  | lineResume (seq : Byte) (params : List Byte)
  | enrol (seq : Byte) (params : List Byte)
  | modify (seq : Byte) (params : List Byte)
  | park (seq : Byte) (params : List Byte)
  | release (seq : Byte) (params : List Byte)
  | stationQuery (seq : Byte) (params : List Byte)
  | roster (seq : Byte) (params : List Byte)
  | put (seq : Byte) (params : List Byte)
  | get (seq : Byte) (params : List Byte)
  | broadcast (seq : Byte) (params : List Byte)
  | cancel (seq : Byte) (params : List Byte)
  | queueQuery (seq : Byte) (params : List Byte)
  -- the two takes that carry out none of the twenty commands; `body` is the whole body
  | cachedResponse (seq : Byte) (body : List Byte)
  | commandCodeUnknown (seq : Byte) (body : List Byte)
  -- the host link receiver
  | strayByte (ch : RxChar)
  | badLength (b : Byte)
  | brokenFrame (ch : RxChar)
  | framePauseTimeout
  | crcError (b : Byte)
  | commandFrame (b : Byte)
  | ackFrame (b : Byte)
  | unknownKindFrame (b : Byte)
  | lineBreak
  -- the host link transmitter and the report unit
  | responseFrameBegin
  | responseDelivered
  | reportFrameBegin
  | reportFrameEnd
  | ackTimerExpiry
  -- deadlines and the timetable
  | deadlineExpiry (tag : Half)
  | dueTimeReached (a : Addr)
  | latenessSaturated (d : DueRef)
  -- the line engine and the telegram framer
  | sendStart
  | callCharacterSent
  | echoReceived (ch : RxChar)
  | echoTimeout
  | replyTimeout
  | telegramStart (ch : RxChar)
  | telegramCharacter (b : Byte)
  | telegramFault (ch : RxChar)
  | telegramPauseTimeout
  | telegramComplete (b : Byte)
  | trailingCharacter (ch : RxChar)
  | framerGapReached
  | lrxIdleReturn
  | broadcastSettled
  -- fallback and reset
  | silenceTimerExpiry
  | nrstAssert
  | nrstRelease
  | powerUp
  | supplyFail
  -- the remaining receiver events of both lines
  | leadByte
  | frameByte (b : Byte)
  | hrxIdleReturn
  | startBitConfirmed
  | lineQuietSaturated
  deriving DecidableEq, Repr

end Sys2Proof
end

