-- ==== Sys2Proof/Decode.lean ====
section
/-!
DEFINITION. spec/opcode_table.json gives no row bits, a match or a mask, so no word spells a command: the
FB31's commands are frames and events, and the bytes of a COMMAND body are decoded in
Machine/Operands.lean and Machine/CommandUnit.lean.
-/

namespace Sys2Proof

/-- The command a word spells by the table's bits: none, since the table gives no row any. -/
def decodeTableWord (nbits w : Nat) : Option Instr :=
  match nbits, w with
  | _, _ => none

end Sys2Proof
end

