-- ==== Sys2Proof/Config.lean ====
section
/-!
DEFINITION. What the manual fixes for every FB31: the clock input, the capacities and the identity values.
The manual leaves no value open, so there is no free value here.
-/

namespace Sys2Proof.Config

/-- CLK, 16 MHz (00_scope.md, Pins). -/
abbrev clkHz : Nat := 16000000

/-- CLK cycles in one millisecond (R181: the clock is derived from CLK). -/
abbrev cyclesPerMs : Nat := 16000

/-- Bit times in one character or byte, start and stop bit included (R73, R153). -/
abbrev bitsPerCharacter : Nat := 10

/-- Every interval in CLK cycles is held at 65,535 ms: no interval the device measures is longer
(00_scope.md, Conventions). DESIGN CHOICE, safe: every limit compared with is far below (log 12). -/
abbrev cycleCap : Nat := 65535 * cyclesPerMs

/-- The largest lateness, 2,147,483,647 ms (R56). -/
abbrev latenessCap : Nat := 2147483647

/-- The largest line quiet time in milliseconds (R122). -/
abbrev quietCapMs : Nat := 65535

/-- The budget of live requests (R30). -/
abbrev requestBudget : Nat := 16

/-- The most reports sent and not yet acknowledged (R143). -/
abbrev sentWindow : Nat := 4

/-- The round count at which the report link stalls (R148). -/
abbrev stallRound : Nat := 8

/-- The pause inside a host frame that breaks it, in milliseconds (R157). -/
abbrev framePauseMs : Nat := 20

/-- The pause inside a telegram that breaks it, in character times (R83). -/
abbrev telegramPauseChars : Nat := 2

/-- The limit on an echo, in character times after the end of the character sent (R96). -/
abbrev echoLimitChars : Nat := 2

/-- The lead byte of a host frame (R154). -/
abbrev leadByte : Byte := 0xA7#8

/-- The six values of IDENTIFY (R177), as they stand in its response (R198). -/
abbrev vendorCode : Half := 0x52C1#16
abbrev partCode : Half := 0x31B0#16
abbrev partRevision : Byte := 0x02#8
abbrev stationCount : Byte := 31#8
abbrev reportCapacity : Byte := 96#8

/-- The ack timeout after a full reset, in milliseconds (R147). -/
abbrev defaultAckTimeout : Nat := 100

/-- The miss limit ENROL stores when none is given (R5). -/
abbrev defaultMissLimit : Nat := 3

end Sys2Proof.Config
end

