-- ==== Sys2Proof/Machine/State.lean ====
section
/-!
DEFINITION. Everything the manual gives the FB31 to keep, as plain data, block by block, and the state right
after a full reset.
-/

namespace Sys2Proof.Machine

/-! ### Stations and the Station Table (chapter 1) -/

/-- The six station states (R1, section 1.2). -/
inductive StationState where
  | vacant | probing | online | suspect | lost | parked
  deriving DecidableEq, Repr

/-- The report modes (R1, R27). -/
inductive ReportMode where
  | changes | every | silent
  deriving DecidableEq, Repr

/-- A station's identity: type code and revision (R1, R88). -/
structure Identity where
  typeCode : Half
  revision : Byte
  deriving DecidableEq, Repr

/-- The details of GARBLED (R101, R102, R195). -/
inductive GarbledDetail where
  | framing | crc | broken | badLength | wrongKind
  deriving DecidableEq, Repr

/-- The details of COLLISION (R93, R97, R195). -/
inductive CollisionDetail where
  | echo | foreignCall
  deriving DecidableEq, Repr

/-- The eight outcomes of an exchange with their details (section 1.7, R101, R102, R195). -/
inductive ExOutcome where
  | good
  | refused (reason : Byte)
  | noReply
  | garbled (detail : GarbledDetail)
  | wrongSource
  | stale
  | collision (detail : CollisionDetail)
  | sent
  deriving DecidableEq, Repr

/-- The call kinds (R77). -/
inductive CallKind where
  | poll | put | get | hail | bcast
  deriving DecidableEq, Repr

/-- A station's last fault (R1, R18). -/
structure LastFault where
  outcome : ExOutcome
  kind : CallKind
  time : Clock
  deriving DecidableEq, Repr

/-- A due time of the timetable with its standing (R56): `reached` once the clock's arrival has been taken,
`saturated` the mark that holds the lateness at its largest value. -/
structure DueTime where
  time : Clock
  reached : Bool
  saturated : Bool
  deriving DecidableEq, Repr

/-- One entry of the Station Table (R1); the address is its index. -/
structure Station where
  state : StationState
  level : Nat
  period : Nat
  imageLength : Nat
  watchMask : List Byte
  reportMode : ReportMode
  missLimit : Nat
  missCount : Nat
  expected : Option Identity
  identity : Option Identity
  image : Option (List Byte)
  reportedImage : Option (List Byte)
  toggle : Bool
  nextDue : Option DueTime
  goodExchanges : Half
  missedExchanges : Half
  pollOverruns : Half
  probeMisses : Half
  lastFault : Option LastFault
  deriving DecidableEq, Repr

/-- An entry at the reset values of R1. -/
def Station.reset : Station where
  state := .vacant
  level := 0
  period := 1000
  imageLength := 1
  watchMask := [0xFF#8]
  reportMode := .changes
  missLimit := 3
  missCount := 0
  expected := none
  identity := none
  image := none
  reportedImage := none
  toggle := false
  nextDue := none
  goodExchanges := 0
  missedExchanges := 0
  pollOverruns := 0
  probeMisses := 0
  lastFault := none

/-! ### The Call Queue (chapter 2) -/

inductive RequestKind where
  | put | get | broadcast
  deriving DecidableEq, Repr

/-- The states of a live request (R29, R30). -/
inductive RequestState where
  | waiting | onLine | reported
  deriving DecidableEq, Repr

/-- The final results of a request (R49, R50). -/
inductive RequestResult where
  | done | refused | failed | expired | cancelled | stationLost | sent
  deriving DecidableEq, Repr

/-- One request record (R29). Its acceptance order is its place in the live set's list. -/
structure Request where
  tag : Half
  kind : RequestKind
  station : Dest
  urgency : Nat
  allowance : Nat
  deadline : Option Nat
  payload : List Byte
  acceptedAt : Clock
  attempts : Nat
  lastOutcome : Option ExOutcome
  state : RequestState
  deriving DecidableEq, Repr

/-! ### The Line Engine (chapters 4 to 6) -/

/-- The line roles (R114). -/
inductive LineRole where
  | off | master | stopping | yielded
  deriving DecidableEq, Repr

/-- The six field line rates (R73, R195). -/
inductive LineRate where
  | r19200 | r38400 | r57600 | r115200 | r250000 | r500000
  deriving DecidableEq, Repr

/-- The five line parameters (R115). -/
structure LineParams where
  rate : LineRate
  gap : Nat
  replyTimeout : Nat
  probeInterval : Nat
  quietInterval : Nat
  deriving DecidableEq, Repr

/-- The reset values of R115. -/
def LineParams.reset : LineParams where
  rate := .r57600
  gap := 3
  replyTimeout := 20
  probeInterval := 1000
  quietInterval := 200

/-- What an exchange serves (R91): the anchor stands with the poll, recovery poll and probe origins, the
tag with the request. -/
inductive Origin where
  | poll (anchor : DueTime)
  | recoveryPoll (anchor : DueTime)
  | probe (anchor : DueTime)
  | request (tag : Half)
  | fallback
  deriving DecidableEq, Repr

/-- The exchange record (R91). -/
structure ExchangeRecord where
  origin : Origin
  station : Dest
  kind : CallKind
  payload : List Byte
  toggleSent : Option Bool
  imageLength : Option Nat
  orphaned : Bool
  deriving DecidableEq, Repr

/-- The exchange states other than IDLE (R90) with what each measures.
`sending`: CLK cycles since LDE was asserted, characters ended on LTX, echoes paired (R95, R96).
`await`: the clock at the release of LDE, and whether a start bit has been confirmed since (R99). -/
inductive Phase where
  | gap
  | sending (elapsed ended paired : Nat)
  | await (since : Clock) (startSeen : Bool)
  | receiving
  | settle
  deriving DecidableEq, Repr

/-- An exchange in progress. The exchange state is IDLE exactly when there is none (R90). -/
structure Exchange where
  record : ExchangeRecord
  phase : Phase
  deriving DecidableEq, Repr

/-- The telegram framer (section 4.3); in COLLECTING it keeps the characters so far, which give the position. -/
inductive Framer where
  | skipping
  | ready
  | collecting (chars : List Byte)
  deriving DecidableEq, Repr

/-- The four line counters (R112). -/
structure LineCounters where
  callsSent : Half
  goodReplies : Half
  misses : Half
  contentions : Half
  deriving DecidableEq, Repr

def LineCounters.zero : LineCounters := ⟨0, 0, 0, 0⟩

/-- The Line Engine. `quiet` is the time in CLK cycles since the end of the last character received or
since LRX returned to idle (R75). -/
structure LineEngine where
  role : LineRole
  params : LineParams
  exchange : Option Exchange
  lde : Bool
  framer : Framer
  quiet : Nat
  charInProgress : Bool
  lrxHeld : Bool
  quietSince : Clock
  quietSaturated : Bool
  counters : LineCounters
  deriving DecidableEq, Repr

/-! ### The Report Unit (chapter 7) -/

inductive ResetCause where
  | power | pin | restart
  deriving DecidableEq, Repr

inductive StationReason where
  | found | returned | misses | identityMismatch
  deriving DecidableEq, Repr

inductive LineReason where
  | contention | stopped | fallback
  deriving DecidableEq, Repr

inductive LineDetail where
  | none | echo | foreignCall | sent | omitted | disturbed
  deriving DecidableEq, Repr

/-- The five report kinds with their fields (section 7.2). -/
inductive Report where
  | ready (cause : ResetCause) (revision : Byte)
  | result (tag : Half) (kind : RequestKind) (result : RequestResult) (attempts : Nat)
      (lastOutcome : Option ExOutcome) (data : List Byte)
  | image (a : Addr) (length : Nat) (image : List Byte) (merges : Byte)
  | station (a : Addr) (fromState toState : StationState) (reason : StationReason)
      (identity : Option Identity) (merges : Byte)
  | line (fromRole toRole : LineRole) (reason : LineReason) (detail : LineDetail) (merges : Byte)
  deriving DecidableEq, Repr

/-- UNSENT, or SENT with its sequence number (R129). -/
inductive SendState where
  | unsent
  | sent (seq : Byte)
  deriving DecidableEq, Repr

structure ReportEntry where
  report : Report
  status : SendState
  deriving DecidableEq, Repr

inductive ReportLink where
  | flowing | stalled
  deriving DecidableEq, Repr

/-- The running ack timer: its start and the timeout in force when it started (R147). -/
structure AckTimer where
  start : Clock
  timeout : Nat
  deriving DecidableEq, Repr

/-- The Report Unit (R129). The resend point names a SENT entry by its sequence number. -/
structure ReportUnit where
  queue : List ReportEntry
  link : ReportLink
  nextSeq : Byte
  ackTimer : Option AckTimer
  ackTimeout : Nat
  roundCount : Nat
  resendPoint : Option Byte
  unknownAcks : Half
  retransmissions : Half
  attn : Bool
  deriving DecidableEq, Repr

/-! ### The Host Link (chapter 8) -/

/-- The four host link rates (R153, R195). -/
inductive HostRate where
  | r115200 | r230400 | r460800 | r921600
  deriving DecidableEq, Repr

/-- The receiver (section 8.3): the bytes after the lead byte give the position reached and the length
announced; `lastEnded` is the clock value at which the last byte ended (log 25). -/
inductive Receiver where
  | hunting
  | assembling (bytes : List Byte) (lastEnded : Clock)
  deriving DecidableEq, Repr

/-- HRX as far as the receiver must know it (R153, R169): high, or held low, where no byte is recognised; `elapsed`
is the time in CLK cycles since the falling edge, or since the end of a reset through which HRX was low, and
`declared` whether this low has been declared a break. -/
inductive HrxLevel where
  | high
  | low (elapsed : Nat) (declared : Bool)
  deriving DecidableEq, Repr

/-- A COMMAND frame in the ready slot: sequence and body (R160). -/
structure CommandFrame where
  seq : Byte
  body : List Byte
  deriving DecidableEq, Repr

/-- A RESPONSE: the sequence of its command and its body (R172, R176). -/
structure Response where
  seq : Byte
  body : List Byte
  deriving DecidableEq, Repr

inductive TxSource where
  | response | report
  deriving DecidableEq, Repr

/-- The frame being transmitted on HTX: its bytes, the rate in force when it began (R166) and the CLK
cycles since. -/
structure TxFrame where
  source : TxSource
  bytes : List Byte
  rate : HostRate
  elapsed : Nat
  deriving DecidableEq, Repr

/-- The six receiver counters (R161). -/
structure HostCounters where
  crcErrors : Half
  overruns : Half
  brokenFrames : Half
  badLengths : Half
  strayBytes : Half
  breaks : Half
  deriving DecidableEq, Repr

def HostCounters.zero : HostCounters := ⟨0, 0, 0, 0, 0, 0⟩

/-- The Host Link. `cache` holds the response last built together with its sequence, which is the last
executed sequence (section 8.4). -/
structure HostLink where
  rate : HostRate
  pendingRate : Option HostRate
  receiver : Receiver
  hrx : HrxLevel
  readySlot : Option CommandFrame
  cache : Option Response
  tx : Option TxFrame
  counters : HostCounters
  deriving DecidableEq, Repr

/-! ### The Command Unit and the fallback logic (chapters 9 and 10) -/

structure CommandUnit where
  responseSlot : Option Response
  pendingRestart : Bool
  deriving DecidableEq, Repr

inductive FallbackPhase where
  | none | awaitingExchange | broadcast
  deriving DecidableEq, Repr

/-- The five pieces of fallback state (R187); a limit of 0 is off. -/
structure Fallback where
  limit : Nat
  payload : Option (List Byte)
  timer : Option Clock
  pending : Bool
  phase : FallbackPhase
  deriving DecidableEq, Repr

def Fallback.reset : Fallback := ⟨0, .none, .none, false, .none⟩

/-- The pins and conditions that hold the device in reset (R183, R184). -/
structure Power where
  nrstLow : Bool
  supplyInRange : Bool
  supplyLost : Bool
  deriving DecidableEq, Repr

/-- Out of reset: NRST high, supply in range, and no supply failure since the READY just queued. -/
def Power.running : Power := ⟨false, true, false⟩

/-! ### The device -/

/-- The FB31 and the queue of commands waiting to be taken. -/
structure State where
  stations : Vector Station 31
  requests : List Request
  engine : LineEngine
  reports : ReportUnit
  host : HostLink
  unit : CommandUnit
  fallback : Fallback
  clock : Clock
  subMs : Nat
  power : Power
  pending : List Instr
  deriving DecidableEq, Repr

/-- The reset values of the Line Engine (R81, R90, R112, R114, R115, R122). -/
def LineEngine.reset : LineEngine where
  role := .off
  params := LineParams.reset
  exchange := none
  lde := false
  framer := .skipping
  quiet := 0
  charInProgress := false
  lrxHeld := false
  quietSince := 0
  quietSaturated := false
  counters := LineCounters.zero

/-- The Report Unit after a full reset (R129, R131, R151, R152): READY alone in the queue, ATTN asserted. -/
def ReportUnit.reset (cause : ResetCause) : ReportUnit where
  queue := [⟨.ready cause Config.partRevision, .unsent⟩]
  link := .flowing
  nextSeq := 0
  ackTimer := none
  ackTimeout := Config.defaultAckTimeout
  roundCount := 0
  resendPoint := none
  unknownAcks := 0
  retransmissions := 0
  attn := true

/-- R169: HRX as a reset ends. A low is measured afresh from the end of the reset. -/
def HrxLevel.atReset (hrxLow : Bool) : HrxLevel := if hrxLow then .low 0 false else .high

/-- The Host Link after a full reset (R171), with HRX at its level of that event (R169). -/
def HostLink.reset (hrxLow : Bool) : HostLink where
  rate := .r115200
  pendingRate := none
  receiver := .hunting
  hrx := .atReset hrxLow
  readySlot := none
  cache := none
  tx := none
  counters := HostCounters.zero

/-- The state at the end of a full reset with the given cause (R185) and the given level of HRX, with the given
commands waiting. -/
def State.afterReset (cause : ResetCause) (hrxLow : Bool) (waiting : List Instr) : State where
  stations := Vector.replicate 31 Station.reset
  requests := []
  engine := LineEngine.reset
  reports := ReportUnit.reset cause
  host := HostLink.reset hrxLow
  unit := ⟨none, false⟩
  fallback := Fallback.reset
  clock := 0
  subMs := 0
  power := Power.running
  pending := waiting

/-- The device right after power-up (R184, R185): cause POWER (log 15), HRX high (log 14), nothing waiting. -/
def State.reset : State := State.afterReset .power false []

/-- No command and no event stops the FB31: every one has an effect in the manual, be it none. There is
therefore no fault. -/
inductive Fault where
  deriving DecidableEq, Repr

/-- `notModelled`: raised by an arm of exec whose row has no meaning yet (safe); no arm does. -/
inductive Refusal where
  | notModelled (mnemonic : String)
  deriving DecidableEq, Repr

end Sys2Proof.Machine
end

