-- ==== Sys2Proof/Machine/Flags.lean ====
section
/-!
DEFINITION. The conditions the rules test and the counters they raise: saturating counts, intervals against
the millisecond clock and in character times, due times reached, deadlines passed, quiet on the line.
-/

namespace Sys2Proof.Machine

/-! ### Counters (00_scope.md, Conventions) -/

/-- Raise a 16-bit counter by `n`; it stays at 65,535. -/
def satAdd (c : Half) (n : Nat) : Half := BitVec.ofNat 16 (min 65535 (c.toNat + n))

/-- Raise a 16-bit counter by 1; it stays at 65,535. -/
def satInc (c : Half) : Half := satAdd c 1

/-- Raise a merge count by 1; it saturates at 255 (R130). -/
def satIncByte (c : Byte) : Byte := BitVec.ofNat 8 (min 255 (c.toNat + 1))

/-! ### Intervals on the millisecond clock (00_scope.md, R181) -/

/-- Milliseconds from `start` to `now`, undisturbed by the wrap of the clock. -/
def msSince (now start : Clock) : Nat := (now - start).toNat

/-- The clock value `ms` after `now`. -/
def msAfter (now : Clock) (ms : Nat) : Clock := now + BitVec.ofNat 32 ms

/-! ### Due times (R56) -/

/-- A due time made due at once is reached at the event that sets it. -/
def DueTime.atOnce (now : Clock) : DueTime := ⟨now, true, false⟩

/-- A due time `ms` ahead of `now`, not yet reached. -/
def DueTime.ahead (now : Clock) (ms : Nat) : DueTime := ⟨msAfter now ms, false, false⟩

/-- The clock is at or past the due time (differences of 2^31 and more are times still ahead). -/
def DueTime.arrived (now : Clock) (d : DueTime) : Bool := msSince now d.time < 2147483648

/-- R56: reached from the first event at which the clock equals or passes it. At the very millisecond of the
due time the event is DUE_TIME_REACHED itself, so that another event of that millisecond taken before it does
not yet see the due time (R65; DEDUCED, log 8). -/
def DueTime.isReached (now : Clock) (d : DueTime) : Bool :=
  d.reached || d.saturated || (d.arrived now && msSince now d.time != 0)

/-- R56: the lateness in milliseconds, saturated at 2,147,483,647. -/
def DueTime.lateness (now : Clock) (d : DueTime) : Nat :=
  if d.saturated then Config.latenessCap
  else if d.isReached now then min Config.latenessCap (msSince now d.time)
  else 0

/-- R56: the lateness of a reached due time has arrived at its largest value. -/
def DueTime.latenessFull (now : Clock) (d : DueTime) : Bool :=
  d.isReached now && d.lateness now == Config.latenessCap

/-- R56: set the saturated mark, which goes on holding the due time as reached. -/
def DueTime.saturate (d : DueTime) : DueTime := { d with reached := true, saturated := true }

/-! ### Deadlines (R39, R45) -/

/-- R39: a deadline has passed when the clock less accepted at is at least the deadline. -/
def Request.deadlinePassed (now : Clock) (r : Request) : Bool :=
  match r.deadline with
  | none => false
  | some d => d ≤ msSince now r.acceptedAt

/-! ### Character and byte times -/

/-- Field line bits per second (R73). -/
def LineRate.bps : LineRate → Nat
  | .r19200 => 19200
  | .r38400 => 38400
  | .r57600 => 57600
  | .r115200 => 115200
  | .r250000 => 250000
  | .r500000 => 500000

/-- Host link bits per second (R153). -/
def HostRate.bps : HostRate → Nat
  | .r115200 => 115200
  | .r230400 => 230400
  | .r460800 => 460800
  | .r921600 => 921600

/-- `cycles` of CLK are at least `n` character times at `bps` bits per second. -/
def charTimesRun (cycles bps n : Nat) : Bool :=
  n * Config.bitsPerCharacter * Config.clkHz ≤ cycles * bps

/-- `cycles` of CLK are more than `n` character times at `bps` bits per second. -/
def charTimesExceeded (cycles bps n : Nat) : Bool :=
  n * Config.bitsPerCharacter * Config.clkHz < cycles * bps

/-! ### Quiet on the field line (R75, R122) -/

/-- R75, R121: no character is being received and LRX is not held away from idle. -/
def LineEngine.isQuiet (e : LineEngine) : Bool := !e.charInProgress && !e.lrxHeld

/-- R92: the line is quiet and the quiet time has reached the gap at the rate in force. -/
def LineEngine.gapReached (e : LineEngine) : Bool :=
  e.isQuiet && charTimesRun e.quiet e.params.rate.bps e.params.gap

/-- R83: the pause since the last character exceeds 2 character times. -/
def LineEngine.pauseExceeded (e : LineEngine) : Bool :=
  e.isQuiet && charTimesExceeded e.quiet e.params.rate.bps Config.telegramPauseChars

/-- R122: the line quiet time in milliseconds, held at 65,535. -/
def LineEngine.quietMs (now : Clock) (e : LineEngine) : Nat :=
  if e.quietSaturated then Config.quietCapMs else min Config.quietCapMs (msSince now e.quietSince)

/-- The framer is inside a telegram. -/
def Framer.isCollecting : Framer → Bool
  | .collecting _ => true
  | .skipping => false
  | .ready => false

/-- R92: the call in GAP may start. -/
def LineEngine.maySend (e : LineEngine) : Bool := e.gapReached && !e.framer.isCollecting

/-! ### Outcomes -/

/-- The four misses (section 1.7). -/
def ExOutcome.isMiss : ExOutcome → Bool
  | .noReply => true
  | .garbled _ => true
  | .wrongSource => true
  | .stale => true
  | .good => false
  | .refused _ => false
  | .collision _ => false
  | .sent => false

/-- GOOD or REFUSED. -/
def ExOutcome.isAnswer : ExOutcome → Bool
  | .good => true
  | .refused _ => true
  | .noReply => false
  | .garbled _ => false
  | .wrongSource => false
  | .stale => false
  | .collision _ => false
  | .sent => false

/-! ### Reset and the host link -/

/-- R183, R184: NRST low or the supply out of range holds the device in reset. -/
def State.held (s : State) : Bool := s.power.nrstLow || !s.power.supplyInRange

/-- R153, R169: HRX is high, so that a start bit can be recognised. -/
def HostLink.listening (h : HostLink) : Bool := h.hrx == .high

/-- R188: the fallback is armed while the silence limit is other than 0. -/
def Fallback.armed (f : Fallback) : Bool := f.limit != 0

end Sys2Proof.Machine
end

