-- ==== Sys2Proof/Machine/Formats.lean ====
section
/-!
DEFINITION. Chapter 11: byte order, the numeric codes, the CRC, and the layouts of frames, telegrams,
responses and reports.
-/

namespace Sys2Proof.Machine

/-! ### Byte order (R194: most significant byte first) -/

/-- The two bytes of a 16-bit value. -/
def halfBytes (h : Half) : List Byte := [h.extractLsb' 8 8, h.extractLsb' 0 8]

/-- The four bytes of a clock value. -/
def clockBytes (c : Clock) : List Byte :=
  [c.extractLsb' 24 8, c.extractLsb' 16 8, c.extractLsb' 8 8, c.extractLsb' 0 8]

/-- A 16-bit value from its two bytes. -/
def halfOf (hi lo : Byte) : Half := hi ++ lo

/-- A count or a small value in one byte. -/
def natByte (n : Nat) : Byte := BitVec.ofNat 8 n

/-- An interval in milliseconds in 16 bits. -/
def natHalf (n : Nat) : Half := BitVec.ofNat 16 n

/-- A yes or no value, 0 or 1. -/
def flagByte (b : Bool) : Byte := if b then 1#8 else 0#8

/-- A byte string of zeros. -/
def zeroBytes (n : Nat) : List Byte := List.replicate n 0#8

/-! ### The CRC (R80, R154) -/

/-- One shift of the remainder: 1021h is added where a 1 leaves the top. -/
def crcShift (r : Half) : Half :=
  if r.getLsbD 15 then (r <<< 1) ^^^ 0x1021#16 else r <<< 1

/-- One byte, most significant bit first: added into the upper eight bits, then eight shifts. -/
def crcByte (r : Half) (b : Byte) : Half :=
  let r0 := r ^^^ (b.setWidth 16 <<< 8)
  crcShift (crcShift (crcShift (crcShift (crcShift (crcShift (crcShift (crcShift r0)))))))

/-- The CRC of a byte string: start value FFFFh, no final inversion. -/
def crc16 (bytes : List Byte) : Half := bytes.foldl crcByte 0xFFFF#16

/-! ### Codes (R195) -/

def StationState.code : StationState → Byte
  | .vacant => 0#8 | .probing => 1#8 | .online => 2#8 | .suspect => 3#8 | .lost => 4#8 | .parked => 5#8

def LineRole.code : LineRole → Byte
  | .off => 0#8 | .master => 1#8 | .stopping => 2#8 | .yielded => 3#8

/-- R90, R195: IDLE is no exchange. -/
def exchangeCode : Option Exchange → Byte
  | none => 0#8
  | some x =>
    match x.phase with
    | .gap => 1#8
    | .sending _ _ _ => 2#8
    | .await _ _ => 3#8
    | .receiving => 4#8
    | .settle => 5#8

def ReportLink.code : ReportLink → Byte
  | .flowing => 0#8 | .stalled => 1#8

def RequestState.code : RequestState → Byte
  | .waiting => 0#8 | .onLine => 1#8 | .reported => 2#8

def RequestKind.code : RequestKind → Byte
  | .put => 1#8 | .get => 2#8 | .broadcast => 3#8

def ReportMode.code : ReportMode → Byte
  | .changes => 0#8 | .every => 1#8 | .silent => 2#8

/-- The call kind in a last fault; BCAST names no station and never stands there. -/
def CallKind.code : CallKind → Byte
  | .poll => 1#8 | .put => 2#8 | .get => 3#8 | .hail => 4#8 | .bcast => 5#8

def GarbledDetail.code : GarbledDetail → Byte
  | .framing => 1#8 | .crc => 2#8 | .broken => 3#8 | .badLength => 4#8 | .wrongKind => 5#8

def CollisionDetail.code : CollisionDetail → Byte
  | .echo => 1#8 | .foreignCall => 2#8

def ExOutcome.code : ExOutcome → Byte
  | .good => 0#8 | .refused _ => 1#8 | .noReply => 2#8 | .garbled _ => 3#8 | .wrongSource => 4#8
  | .stale => 5#8 | .collision _ => 6#8 | .sent => 7#8

/-- The detail byte that stands after the outcome byte. -/
def ExOutcome.detailCode : ExOutcome → Byte
  | .good => 0#8 | .refused reason => reason | .noReply => 0#8 | .garbled d => d.code
  | .wrongSource => 0#8 | .stale => 0#8 | .collision d => d.code | .sent => 0#8

def RequestResult.code : RequestResult → Byte
  | .done => 0#8 | .refused => 1#8 | .failed => 2#8 | .expired => 3#8 | .cancelled => 4#8
  | .stationLost => 5#8 | .sent => 6#8

def ResetCause.code : ResetCause → Byte
  | .power => 1#8 | .pin => 2#8 | .restart => 3#8

def StationReason.code : StationReason → Byte
  | .found => 1#8 | .returned => 2#8 | .misses => 3#8 | .identityMismatch => 4#8

def LineReason.code : LineReason → Byte
  | .contention => 1#8 | .stopped => 2#8 | .fallback => 3#8

def LineDetail.code : LineDetail → Byte
  | .none => 0#8 | .echo => 1#8 | .foreignCall => 2#8 | .sent => 3#8 | .omitted => 4#8 | .disturbed => 5#8

/-- R128: the LINE detail of a contention. -/
def CollisionDetail.toLine : CollisionDetail → LineDetail
  | .echo => .echo
  | .foreignCall => .foreignCall

/-- The status codes (R176, R195). -/
inductive Status where
  | ok | malformed | unknownCommand | outOfRange | wrongRole | notEnrolled | alreadyEnrolled | notOnline
  | queueFull | tagInUse | unknownTag | inFlight | lineActive
  deriving DecidableEq, Repr

def Status.code : Status → Byte
  | .ok => 0x00#8 | .malformed => 0x01#8 | .unknownCommand => 0x02#8 | .outOfRange => 0x03#8
  | .wrongRole => 0x04#8 | .notEnrolled => 0x05#8 | .alreadyEnrolled => 0x06#8 | .notOnline => 0x07#8
  | .queueFull => 0x08#8 | .tagInUse => 0x09#8 | .unknownTag => 0x0A#8 | .inFlight => 0x0B#8
  | .lineActive => 0x0C#8

/-- The twenty commands. -/
inductive CommandName where
  | identify | status | restart | linkSetup | fallbackSet
  | lineSetup | lineStart | lineStop | lineResume
  | enrol | modify | park | release | stationQuery | roster
  | put | get | broadcast | cancel | queueQuery
  deriving DecidableEq, Repr

/-- The command codes. -/
def CommandName.code : CommandName → Byte
  | .identify => 0x10#8 | .status => 0x11#8 | .restart => 0x12#8 | .linkSetup => 0x13#8 | .fallbackSet => 0x14#8
  | .lineSetup => 0x20#8 | .lineStart => 0x21#8 | .lineStop => 0x22#8 | .lineResume => 0x23#8
  | .enrol => 0x30#8 | .modify => 0x31#8 | .park => 0x32#8 | .release => 0x33#8 | .stationQuery => 0x34#8
  | .roster => 0x35#8
  | .put => 0x40#8 | .get => 0x41#8 | .broadcast => 0x42#8 | .cancel => 0x43#8 | .queueQuery => 0x44#8

/-- The command a code names (R173, check 2). -/
def CommandName.ofCode? (c : Byte) : Option CommandName :=
  if c = 0x10#8 then some .identify
  else if c = 0x11#8 then some .status
  else if c = 0x12#8 then some .restart
  else if c = 0x13#8 then some .linkSetup
  else if c = 0x14#8 then some .fallbackSet
  else if c = 0x20#8 then some .lineSetup
  else if c = 0x21#8 then some .lineStart
  else if c = 0x22#8 then some .lineStop
  else if c = 0x23#8 then some .lineResume
  else if c = 0x30#8 then some .enrol
  else if c = 0x31#8 then some .modify
  else if c = 0x32#8 then some .park
  else if c = 0x33#8 then some .release
  else if c = 0x34#8 then some .stationQuery
  else if c = 0x35#8 then some .roster
  else if c = 0x40#8 then some .put
  else if c = 0x41#8 then some .get
  else if c = 0x42#8 then some .broadcast
  else if c = 0x43#8 then some .cancel
  else if c = 0x44#8 then some .queueQuery
  else none

/-- The field line rate a rate code names. -/
def LineRate.ofCode? (c : Byte) : Option LineRate :=
  if c = 0#8 then some .r19200
  else if c = 1#8 then some .r38400
  else if c = 2#8 then some .r57600
  else if c = 3#8 then some .r115200
  else if c = 4#8 then some .r250000
  else if c = 5#8 then some .r500000
  else none

/-- The host link rate a rate code names. -/
def HostRate.ofCode? (c : Byte) : Option HostRate :=
  if c = 0#8 then some .r115200
  else if c = 1#8 then some .r230400
  else if c = 2#8 then some .r460800
  else if c = 3#8 then some .r921600
  else none

/-- The report mode a code names. -/
def ReportMode.ofCode? (c : Byte) : Option ReportMode :=
  if c = 0#8 then some .changes
  else if c = 1#8 then some .every
  else if c = 2#8 then some .silent
  else none

/-- The address a byte names, 1 to 31. -/
def addrOfByte? (b : Byte) : Option Addr :=
  if h : 1 ≤ b.toNat ∧ b.toNat ≤ 31 then some ⟨b.toNat - 1, by omega⟩ else none

/-- The address byte of a station. -/
def addrByte (a : Addr) : Byte := natByte (a.val + 1)

/-- The address byte of a call or a request, 0 for broadcast. -/
def destByte : Dest → Byte
  | none => 0#8
  | some a => addrByte a

/-! ### Host frames (R154, R155, R196) -/

def kindCommand : Byte := 0x01#8
def kindAck : Byte := 0x02#8
def kindResponse : Byte := 0x81#8
def kindReport : Byte := 0x82#8

/-- A whole frame: lead, length, kind, sequence, body and CRC; the CRC leaves out the lead byte. -/
def hostFrame (kind seq : Byte) (body : List Byte) : List Byte :=
  let covered := natByte (body.length + 2) :: kind :: seq :: body
  Config.leadByte :: covered ++ halfBytes (crc16 covered)

/-! ### Telegrams (R76, R200) -/

/-- The kind field of a CALL header. -/
def CallKind.field : CallKind → Byte
  | .poll => 1#8 | .put => 2#8 | .get => 3#8 | .hail => 4#8 | .bcast => 5#8

/-- R200: direction CALL is 0 in the most significant bit, the kind stands in the next three bits, the
toggle in the least significant bit, and the bits between are sent as 0. -/
def callHeader (k : CallKind) (toggle : Bool) : Byte := (k.field <<< 4) ||| flagByte toggle

/-- R95: the call built from the exchange record; only a PUT carries a toggle. -/
def ExchangeRecord.call (r : ExchangeRecord) : List Byte :=
  let covered := callHeader r.kind (r.toggleSent.getD false) :: destByte r.station :: natByte r.payload.length
    :: r.payload
  covered ++ halfBytes (crc16 covered)

/-- R200: a header's direction is REPLY when its most significant bit is 1. -/
def headerIsReply (h : Byte) : Bool := h.getLsbD 7

/-- R200: a header's toggle is its least significant bit. -/
def headerToggle (h : Byte) : Bool := h.getLsbD 0

/-- The reply kinds (R77). -/
inductive ReplyKind where
  | data | ack | nak | ident
  deriving DecidableEq, Repr

/-- R200: the reply kind a REPLY header's kind field names; `none` where it is undefined. -/
def headerReplyKind? (h : Byte) : Option ReplyKind :=
  let f := h.extractLsb' 4 3
  if f = 1#3 then some .data
  else if f = 2#3 then some .ack
  else if f = 3#3 then some .nak
  else if f = 4#3 then some .ident
  else none

/-! ### Optional fields in responses and reports (R194) -/

def identityBytes : Option Identity → List Byte
  | none => [0#8, 0#8, 0#8, 0#8]
  | some i => 1#8 :: halfBytes i.typeCode ++ [i.revision]

def dueBytes : Option DueTime → List Byte
  | none => zeroBytes 5
  | some d => 1#8 :: clockBytes d.time

def lastFaultBytes : Option LastFault → List Byte
  | none => zeroBytes 8
  | some f => [1#8, f.outcome.code, f.outcome.detailCode, f.kind.code] ++ clockBytes f.time

def imageBytes (n : Nat) : Option (List Byte) → List Byte
  | none => 0#8 :: zeroBytes n
  | some image => 1#8 :: image

def outcomeBytes : Option ExOutcome → List Byte
  | none => zeroBytes 3
  | some o => [1#8, o.code, o.detailCode]

/-! ### Response data (R198) -/

/-- IDENTIFY (R177). -/
def identifyData : List Byte :=
  halfBytes Config.vendorCode ++ halfBytes Config.partCode ++
    [Config.partRevision, Config.stationCount, natByte Config.requestBudget, Config.reportCapacity]

/-- The record of STATION_QUERY. -/
def stationData (a : Addr) (e : Station) : List Byte :=
  [addrByte a, e.state.code, natByte e.level] ++ halfBytes (natHalf e.period) ++
    [natByte e.imageLength, e.reportMode.code, natByte e.missLimit, natByte e.missCount, flagByte e.toggle] ++
    identityBytes e.expected ++ identityBytes e.identity ++ dueBytes e.nextDue ++
    halfBytes e.goodExchanges ++ halfBytes e.missedExchanges ++ halfBytes e.pollOverruns ++
    halfBytes e.probeMisses ++ lastFaultBytes e.lastFault ++ e.watchMask ++
    imageBytes e.imageLength e.image ++ imageBytes e.imageLength e.reportedImage

/-- One entry of QUEUE_QUERY. -/
def requestData (r : Request) : List Byte :=
  halfBytes r.tag ++ [destByte r.station, r.kind.code, r.state.code, natByte r.attempts]

/-- The view of STATUS (R178). -/
def statusData (s : State) : List Byte :=
  [s.engine.role.code, s.reports.link.code, exchangeCode s.engine.exchange,
   natByte (s.requests.countP (fun r => r.state == .waiting)), natByte s.requests.length,
   natByte (s.reports.queue.countP (fun e => e.status == .unsent)),
   natByte (s.reports.queue.countP (fun e => e.status != .unsent)),
   flagByte s.fallback.armed, flagByte s.fallback.pending] ++ clockBytes s.clock ++
    halfBytes s.host.counters.crcErrors ++ halfBytes s.host.counters.overruns ++
    halfBytes s.host.counters.brokenFrames ++ halfBytes s.host.counters.badLengths ++
    halfBytes s.host.counters.strayBytes ++ halfBytes s.host.counters.breaks ++
    halfBytes s.reports.unknownAcks ++ halfBytes s.reports.retransmissions ++
    halfBytes s.engine.counters.callsSent ++ halfBytes s.engine.counters.goodReplies ++
    halfBytes s.engine.counters.misses ++ halfBytes s.engine.counters.contentions

/-! ### Report bodies (R199) -/

def Report.body : Report → List Byte
  | .ready cause revision => [0x01#8, cause.code, revision]
  | .result tag kind res attempts lastOutcome data =>
    0x02#8 :: halfBytes tag ++ [kind.code, res.code, natByte attempts] ++ outcomeBytes lastOutcome ++
      natByte data.length :: data
  | .image a length img merges => [0x03#8, addrByte a, natByte length, merges] ++ img
  | .station a fromState toState reason identity merges =>
    [0x04#8, addrByte a, fromState.code, toState.code, reason.code] ++ identityBytes identity ++ [merges]
  | .line fromRole toRole reason detail merges =>
    [0x05#8, fromRole.code, toRole.code, reason.code, detail.code, merges]

end Sys2Proof.Machine
end

