-- ==== Sys2Proof/Machine/Operands.lean ====
section
/-!
DEFINITION. The operands of the twenty commands: the layout check (check 3 of R173, R174, R197) and the range
check (check 4, R175) of every command body, part by part.
`params` is the body after the command code. A layout function answers the raw fields, or `none` where the body
is MALFORMED; a range function answers the typed parameters, or `none` where a value is OUT_OF_RANGE.
-/

namespace Sys2Proof.Machine

/-! ### Reading parts in order -/

/-- One byte and the rest. -/
def readByte : List Byte → Option (Byte × List Byte)
  | [] => none
  | b :: rest => some (b, rest)

/-- A 16-bit value, most significant byte first, and the rest. -/
def readHalf : List Byte → Option (Half × List Byte)
  | hi :: lo :: rest => some (halfOf hi lo, rest)
  | [_] => none
  | [] => none

/-- Exactly `n` bytes and the rest. -/
def readBytes (n : Nat) (bs : List Byte) : Option (List Byte × List Byte) :=
  if n ≤ bs.length then some (bs.take n, bs.drop n) else none

/-- A part behind a length byte: the bytes it announces, and the rest. -/
def readCounted (bs : List Byte) : Option (List Byte × List Byte) :=
  match bs with
  | [] => none
  | n :: rest => readBytes n.toNat rest

/-- A part behind a presence flag byte, which must be 0 or 1 (R174). -/
def readOptional {α : Type} (part : List Byte → Option (α × List Byte)) (bs : List Byte) :
    Option (Option α × List Byte) :=
  match bs with
  | [] => none
  | f :: rest =>
    if f = 0#8 then some (none, rest)
    else if f = 1#8 then (part rest).map (fun p => (some p.1, p.2))
    else none

/-- Type code and revision. -/
def readIdentity : List Byte → Option (Identity × List Byte)
  | hi :: lo :: rev :: rest => some (⟨halfOf hi lo, rev⟩, rest)
  | [_, _] => none
  | [_] => none
  | [] => none

/-- The body ends where the last part ends (R197). -/
def atEnd {α : Type} (value : α) (rest : List Byte) : Option α :=
  match rest with
  | [] => some value
  | _ :: _ => none

/-- A value of a range (R175). -/
def inRange (lo hi n : Nat) : Option Nat := if lo ≤ n ∧ n ≤ hi then some n else none

/-- A length byte of 0 announces an absent part. -/
def nonEmpty? (bs : List Byte) : Option (List Byte) :=
  match bs with
  | [] => none
  | b :: rest => some (b :: rest)

/-- Range-check a part only when it is present (R175). -/
def checkOptional {α β : Type} (check : α → Option β) : Option α → Option (Option β)
  | none => some none
  | some x => (check x).map some

/-! ### Device and line commands -/

/-- STATUS: the clear flag, 0 or 1 (R178, R175: another value is out of range). -/
def layoutStatus (params : List Byte) : Option Byte := do
  let (flag, rest) ← readByte params
  atEnd flag rest

def rangeStatus (flag : Byte) : Option Bool :=
  if flag = 0#8 then some false else if flag = 1#8 then some true else none

/-- LINK_SETUP: rate code and ack timeout (R167). -/
def layoutLinkSetup (params : List Byte) : Option (Byte × Half) := do
  let (rate, rest) ← readByte params
  let (timeout, rest) ← readHalf rest
  atEnd (rate, timeout) rest

structure LinkParams where
  rate : HostRate
  ackTimeout : Nat
  deriving DecidableEq, Repr

def rangeLinkSetup (raw : Byte × Half) : Option LinkParams := do
  let rate ← HostRate.ofCode? raw.1
  let timeout ← inRange 20 2000 raw.2.toNat
  some ⟨rate, timeout⟩

/-- FALLBACK_SET: silence limit and counted payload (R188). -/
def layoutFallbackSet (params : List Byte) : Option (Half × List Byte) := do
  let (limit, rest) ← readHalf params
  let (payload, rest) ← readCounted rest
  atEnd (limit, payload) rest

structure FallbackParams where
  limit : Nat
  payload : Option (List Byte)
  deriving DecidableEq, Repr

def rangeFallbackSet (raw : Half × List Byte) : Option FallbackParams := do
  let limit ← if raw.1 = 0#16 then some 0 else inRange 100 60000 raw.1.toNat
  let _ ← inRange 0 32 raw.2.length
  some ⟨limit, nonEmpty? raw.2⟩

/-- LINE_SETUP: the five line parameters (R116). -/
structure RawLineSetup where
  rate : Byte
  gap : Byte
  replyTimeout : Byte
  probeInterval : Half
  quietInterval : Half
  deriving DecidableEq, Repr

def layoutLineSetup (params : List Byte) : Option RawLineSetup := do
  let (rate, rest) ← readByte params
  let (gap, rest) ← readByte rest
  let (timeout, rest) ← readByte rest
  let (probe, rest) ← readHalf rest
  let (quiet, rest) ← readHalf rest
  atEnd ⟨rate, gap, timeout, probe, quiet⟩ rest

def rangeLineSetup (raw : RawLineSetup) : Option LineParams := do
  let rate ← LineRate.ofCode? raw.rate
  let gap ← inRange 2 15 raw.gap.toNat
  let timeout ← inRange 2 250 raw.replyTimeout.toNat
  let probe ← inRange 100 10000 raw.probeInterval.toNat
  let quiet ← inRange 10 5000 raw.quietInterval.toNat
  some ⟨rate, gap, timeout, probe, quiet⟩

/-! ### Station commands -/

/-- PARK, RELEASE, STATION_QUERY: the address. -/
def layoutAddress (params : List Byte) : Option Byte := do
  let (address, rest) ← readByte params
  atEnd address rest

/-- ENROL (R4). -/
structure RawEnrol where
  address : Byte
  level : Byte
  period : Half
  imageLength : Byte
  reportMode : Byte
  watchMask : List Byte
  missLimit : Option Byte
  expected : Option Identity
  deriving DecidableEq, Repr

def layoutEnrol (params : List Byte) : Option RawEnrol := do
  let (address, rest) ← readByte params
  let (level, rest) ← readByte rest
  let (period, rest) ← readHalf rest
  let (length, rest) ← readByte rest
  let (mode, rest) ← readByte rest
  let (mask, rest) ← readCounted rest
  let (limit, rest) ← readOptional readByte rest
  let (expected, rest) ← readOptional readIdentity rest
  atEnd ⟨address, level, period, length, mode, mask, limit, expected⟩ rest

structure EnrolParams where
  address : Addr
  level : Nat
  period : Nat
  imageLength : Nat
  reportMode : ReportMode
  watchMask : Option (List Byte)
  missLimit : Option Nat
  expected : Option Identity
  deriving DecidableEq, Repr

/-- A watch mask, when given, is exactly as long as the image length that applies (R4, R6, R175). -/
def rangeMask (imageLength : Nat) (mask : List Byte) : Option (Option (List Byte)) :=
  match mask with
  | [] => some none
  | b :: rest => if (b :: rest).length = imageLength then some (some (b :: rest)) else none

def rangeMissLimit (b : Byte) : Option Nat := inRange 1 15 b.toNat

def rangeEnrol (raw : RawEnrol) : Option EnrolParams := do
  let address ← addrOfByte? raw.address
  let level ← inRange 0 7 raw.level.toNat
  let period ← inRange 10 60000 raw.period.toNat
  let length ← inRange 1 16 raw.imageLength.toNat
  let mode ← ReportMode.ofCode? raw.reportMode
  let mask ← rangeMask length raw.watchMask
  let limit ← checkOptional rangeMissLimit raw.missLimit
  some ⟨address, level, period, length, mode, mask, limit, raw.expected⟩

/-- MODIFY (R6). -/
structure RawModify where
  address : Byte
  level : Option Byte
  period : Option Half
  imageLength : Option Byte
  watchMask : List Byte
  reportMode : Option Byte
  missLimit : Option Byte
  deriving DecidableEq, Repr

def layoutModify (params : List Byte) : Option RawModify := do
  let (address, rest) ← readByte params
  let (level, rest) ← readOptional readByte rest
  let (period, rest) ← readOptional readHalf rest
  let (length, rest) ← readOptional readByte rest
  let (mask, rest) ← readCounted rest
  let (mode, rest) ← readOptional readByte rest
  let (limit, rest) ← readOptional readByte rest
  atEnd ⟨address, level, period, length, mask, mode, limit⟩ rest

structure ModifyParams where
  address : Addr
  level : Option Nat
  period : Option Nat
  imageLength : Option Nat
  watchMask : Option (List Byte)
  reportMode : Option ReportMode
  missLimit : Option Nat
  deriving DecidableEq, Repr

def rangeLevel (b : Byte) : Option Nat := inRange 0 7 b.toNat

def rangePeriod (h : Half) : Option Nat := inRange 10 60000 h.toNat

def rangeImageLength (b : Byte) : Option Nat := inRange 1 16 b.toNat

/-- R6: a mask is compared with the new image length if one is given, else with the entry's present one, in
every state of the entry. -/
def rangeModify (presentLength : Addr → Nat) (raw : RawModify) : Option ModifyParams := do
  let address ← addrOfByte? raw.address
  let level ← checkOptional rangeLevel raw.level
  let period ← checkOptional rangePeriod raw.period
  let length ← checkOptional rangeImageLength raw.imageLength
  let mask ← rangeMask (length.getD (presentLength address)) raw.watchMask
  let mode ← checkOptional ReportMode.ofCode? raw.reportMode
  let limit ← checkOptional rangeMissLimit raw.missLimit
  some ⟨address, level, period, length, mask, mode, limit⟩

/-! ### Request commands -/

/-- PUT, GET and BROADCAST as read: the payload of a GET is its item index; BROADCAST holds station 0 and
retry allowance 0 (R34). -/
structure RawRequest where
  tag : Half
  station : Byte
  urgency : Byte
  allowance : Byte
  deadline : Half
  payload : List Byte
  deriving DecidableEq, Repr

def layoutPut (params : List Byte) : Option RawRequest := do
  let (tag, rest) ← readHalf params
  let (station, rest) ← readByte rest
  let (urgency, rest) ← readByte rest
  let (allowance, rest) ← readByte rest
  let (deadline, rest) ← readHalf rest
  let (payload, rest) ← readCounted rest
  atEnd ⟨tag, station, urgency, allowance, deadline, payload⟩ rest

def layoutGet (params : List Byte) : Option RawRequest := do
  let (tag, rest) ← readHalf params
  let (station, rest) ← readByte rest
  let (urgency, rest) ← readByte rest
  let (allowance, rest) ← readByte rest
  let (deadline, rest) ← readHalf rest
  let (item, rest) ← readByte rest
  atEnd ⟨tag, station, urgency, allowance, deadline, [item]⟩ rest

def layoutBroadcast (params : List Byte) : Option RawRequest := do
  let (tag, rest) ← readHalf params
  let (urgency, rest) ← readByte rest
  let (deadline, rest) ← readHalf rest
  let (payload, rest) ← readCounted rest
  atEnd ⟨tag, 0#8, urgency, 0#8, deadline, payload⟩ rest

/-- A request as asked for (R32, R33, R34). -/
structure RequestParams where
  tag : Half
  kind : RequestKind
  station : Dest
  urgency : Nat
  allowance : Nat
  deadline : Option Nat
  payload : List Byte
  deriving DecidableEq, Repr

/-- The deadline field: 0 encodes absent. -/
def deadlineOf (h : Half) : Option Nat := if h = 0#16 then none else some h.toNat

/-- R35, check 2, for PUT and GET: station 1 to 31, urgency 1 to 7, allowance 0 to 7, payload 1 to 32 (the item
index of a GET is one byte of any value). -/
def rangeStationRequest (kind : RequestKind) (raw : RawRequest) : Option RequestParams := do
  let a ← addrOfByte? raw.station
  let urgency ← inRange 1 7 raw.urgency.toNat
  let allowance ← inRange 0 7 raw.allowance.toNat
  let _ ← inRange 1 32 raw.payload.length
  some ⟨raw.tag, kind, some a, urgency, allowance, deadlineOf raw.deadline, raw.payload⟩

/-- R35, check 2, for BROADCAST: urgency 1 to 7, payload 1 to 32. -/
def rangeBroadcast (raw : RawRequest) : Option RequestParams := do
  let urgency ← inRange 1 7 raw.urgency.toNat
  let _ ← inRange 1 32 raw.payload.length
  some ⟨raw.tag, .broadcast, none, urgency, 0, deadlineOf raw.deadline, raw.payload⟩

/-- CANCEL: the tag (R46). -/
def layoutCancel (params : List Byte) : Option Half := do
  let (tag, rest) ← readHalf params
  atEnd tag rest

end Sys2Proof.Machine
end

