-- ==== Sys2Proof/Machine/Ops.lean ====
section
/-!
DEFINITION. The named operations every meaning is built from: access to the blocks, the report queue, the live
set, the good-CRC notice, the passage of time, entry into reset and the full reset.
-/

namespace Sys2Proof.Machine

/-! ### Access to the blocks -/

def State.withEngine (f : LineEngine → LineEngine) (s : State) : State := { s with engine := f s.engine }

def State.withReports (f : ReportUnit → ReportUnit) (s : State) : State := { s with reports := f s.reports }

def State.withHost (f : HostLink → HostLink) (s : State) : State := { s with host := f s.host }

def State.withUnit (f : CommandUnit → CommandUnit) (s : State) : State := { s with unit := f s.unit }

def State.withFallback (f : Fallback → Fallback) (s : State) : State := { s with fallback := f s.fallback }

def State.withRequests (f : List Request → List Request) (s : State) : State :=
  { s with requests := f s.requests }

def State.withHostCounters (f : HostCounters → HostCounters) (s : State) : State :=
  s.withHost fun h => { h with counters := f h.counters }

def State.withLineCounters (f : LineCounters → LineCounters) (s : State) : State :=
  s.withEngine fun e => { e with counters := f e.counters }

/-- The entry of an address (R1). -/
def State.station (s : State) (a : Addr) : Station := s.stations[a.val]

/-- Replace the entry of an address. -/
def State.setStation (a : Addr) (e : Station) (s : State) : State :=
  { s with stations := s.stations.set a.val e a.isLt }

/-- Change the entry of an address. -/
def State.withStation (a : Addr) (f : Station → Station) (s : State) : State :=
  s.setStation a (f (s.station a))

/-- While the device is held in reset nothing acts on it (R186). -/
def whenRunning (f : State → State) (s : State) : State := if s.held then s else f s

/-! ### The report queue (chapter 7) -/

/-- R137 to R140: the entry's report after a newer report of the same kind and subject is folded into it;
`none` where the two do not merge. RESULT and READY never do (R132, R131). -/
def Report.merge? (old new : Report) : Option Report :=
  match old, new with
  | .image a _ _ merges, .image a' length' image' _ =>
    if a = a' then some (.image a length' image' (satIncByte merges)) else none
  | .station a fromState _ _ _ merges, .station a' _ toState' reason' identity' _ =>
    if a = a' then some (.station a fromState toState' reason' identity' (satIncByte merges)) else none
  | .line fromRole _ _ _ merges, .line _ toRole' reason' detail' _ =>
    some (.line fromRole toRole' reason' detail' (satIncByte merges))
  | _, _ => none

/-- R136, R137: merge into the UNSENT entry of the same kind and subject, else append at the tail. -/
def placeReport (r : Report) : List ReportEntry → List ReportEntry
  | [] => [⟨r, .unsent⟩]
  | e :: rest =>
    match e.status, e.report.merge? r with
    | .unsent, some merged => ⟨merged, .unsent⟩ :: rest
    | _, _ => e :: placeReport r rest

/-- R151: ATTN is asserted while the queue holds at least one entry. -/
def ReportUnit.setQueue (queue : List ReportEntry) (u : ReportUnit) : ReportUnit :=
  { u with queue := queue, attn := !queue.isEmpty }

/-- R136: a report handed to the Report Unit. -/
def State.putReport (r : Report) (s : State) : State :=
  s.withReports fun u => u.setQueue (placeReport r u.queue)

def SendState.isSent : SendState → Bool
  | .unsent => false
  | .sent _ => true

/-- The SENT entries (R129: the front of the queue). -/
def ReportUnit.sentEntries (u : ReportUnit) : List ReportEntry := u.queue.filter (fun e => e.status.isSent)

/-- The sequence number of the oldest SENT entry. -/
def oldestSent : List ReportEntry → Option Byte
  | [] => none
  | e :: rest =>
    match e.status with
    | .sent q => some q
    | .unsent => oldestSent rest

/-- Is an entry SENT with sequence number `q`? -/
def ReportEntry.sentAs (q : Byte) (e : ReportEntry) : Bool := e.status == .sent q

/-! ### The live set (chapter 2) -/

/-- The live request that holds a tag (R31). -/
def State.findRequest (s : State) (tag : Half) : Option Request := s.requests.find? (fun r => r.tag == tag)

/-- Change the live request that holds a tag. -/
def State.updateRequest (tag : Half) (f : Request → Request) (s : State) : State :=
  s.withRequests fun rs => rs.map fun r => if r.tag = tag then f r else r

/-- R50: the RESULT report of a request; only a GET with result DONE carries data. -/
def Request.resultReport (r : Request) (result : RequestResult) (data : List Byte) : Report :=
  .result r.tag r.kind result r.attempts r.lastOutcome data

/-- R49: a request receives its final result, becomes REPORTED, and its RESULT report is queued. -/
def State.completeRequest (tag : Half) (result : RequestResult) (data : List Byte) (s : State) : State :=
  match s.findRequest tag with
  | none => s
  | some r =>
    (s.updateRequest tag fun r => { r with state := .reported }).putReport (r.resultReport result data)

/-- A WAITING request for a station. -/
def Request.waitsFor (a : Addr) (r : Request) : Bool := r.state == .waiting && r.station == some a

/-- R47, R48: every WAITING request for the station completes with the result given, in acceptance order. -/
def State.removeWaiting (a : Addr) (result : RequestResult) (s : State) : State :=
  (s.requests.filter (Request.waitsFor a)).foldl (fun s r => s.completeRequest r.tag result []) s

/-- R37: the heads of the stations and of the broadcasts among requests in acceptance order that are WAITING.
`seen` holds the stations that already have a request in the Call Queue. -/
def eligibleAfter (seen : List Dest) : List Request → List Request
  | [] => []
  | r :: rest =>
    match r.state with
    | .reported => eligibleAfter seen rest
    | .onLine => eligibleAfter (r.station :: seen) rest
    | .waiting =>
      if seen.contains r.station then eligibleAfter seen rest
      else r :: eligibleAfter (r.station :: seen) rest

/-- R37: the eligible requests, in acceptance order. -/
def State.eligible (s : State) : List Request := eligibleAfter [] s.requests

/-- R37: the head of a station is WAITING, and so a candidate. -/
def State.hasEligible (d : Dest) (s : State) : Bool := s.eligible.any (fun r => r.station == d)

/-- R51: the requests with these tags leave the live set. -/
def State.releaseTags (tags : List Half) (s : State) : State :=
  s.withRequests fun rs => rs.filter fun r => !tags.contains r.tag

/-! ### The field line as heard (R74, R75, R122) -/

/-- The end of a character received: it ends the quiet and restarts its measure, whatever it is; with a
framing error LRX may stay away from idle. -/
def LineEngine.hear (now : Clock) (stop : StopBit) (e : LineEngine) : LineEngine :=
  { e with
    quiet := 0
    charInProgress := false
    lrxHeld := stop == .errorHeld
    quietSince := now
    quietSaturated := false }

def State.hear (stop : StopBit) (s : State) : State := s.withEngine (LineEngine.hear s.clock stop)

/-! ### The silence timer and the good-CRC notice (R189, R158, R149) -/

/-- R189: the timer starts from now, provided the fallback is armed, the role is MASTER and fallback is not
pending. -/
def State.restartSilence (s : State) : State :=
  if s.fallback.armed && s.engine.role == .master && !s.fallback.pending then
    s.withFallback fun f => { f with timer := some s.clock }
  else s

/-- R149: the first frame with a good CRC ends STALLED. -/
def State.endStall (s : State) : State :=
  match s.reports.link with
  | .flowing => s
  | .stalled =>
    match oldestSent s.reports.queue with
    | none => s.withReports fun u => { u with link := .flowing, roundCount := 0 }
    | some q => s.withReports fun u =>
        { u with
          link := .flowing
          roundCount := 0
          resendPoint := some q
          ackTimer := some ⟨s.clock, u.ackTimeout⟩ }

/-- R158: what every frame with a good CRC tells the Command Unit and the Report Unit. -/
def State.goodCrcNotice (s : State) : State := s.restartSilence.endStall

/-- The receiver returns to HUNTING with the assembling slot empty. -/
def State.toHunting (s : State) : State := s.withHost fun h => { h with receiver := .hunting }

/-- R158: the end of every frame with a good CRC, after its own handling: the notice, then HUNTING. -/
def State.goodFrame (s : State) : State := s.goodCrcNotice.toHunting

/-! ### The passage of time -/

def addCycles (n : Nat) (c : Nat) : Nat := min Config.cycleCap (c + n)

def Phase.elapse (n : Nat) : Phase → Phase
  | .gap => .gap
  | .sending elapsed ended paired => .sending (addCycles n elapsed) ended paired
  | .await since startSeen => .await since startSeen
  | .receiving => .receiving
  | .settle => .settle

def HrxLevel.elapse (n : Nat) : HrxLevel → HrxLevel
  | .high => .high
  | .low elapsed declared => .low (addCycles n elapsed) declared

/-- `n` cycles of CLK pass in which nothing is taken (log 1): the millisecond clock counts (R181) and every
measure of time goes on. The clock stops while the device is held in reset. -/
def State.elapse (n : Nat) (s : State) : State :=
  if s.held then s else
    { s with
      clock := msAfter s.clock ((s.subMs + n) / Config.cyclesPerMs)
      subMs := (s.subMs + n) % Config.cyclesPerMs
      engine :=
        { s.engine with
          quiet := addCycles n s.engine.quiet
          exchange := s.engine.exchange.map fun x => { x with phase := x.phase.elapse n } }
      host :=
        { s.host with
          hrx := s.host.hrx.elapse n
          tx := s.host.tx.map fun t => { t with elapsed := addCycles n t.elapsed } } }

/-! ### Reset (R183 to R186) -/

/-- R186: at entry into reset every operation in progress is abandoned, without outcome, report or notice. -/
def State.abandon (s : State) : State :=
  { s with
    requests := []
    engine := { s.engine with exchange := none, lde := false }
    reports := { s.reports with queue := [], attn := false, ackTimer := none, resendPoint := none }
    host := { s.host with receiver := .hunting, readySlot := none, tx := none, pendingRate := none }
    unit := ⟨none, false⟩
    fallback := { s.fallback with timer := none, pending := false, phase := .none } }

/-- R185: every block at its reset values and READY queued, all at the event the device leaves reset. HRX is an
input and stays as it is, its low measured afresh (R169; log 14). The commands the model still holds are kept
(log 16). -/
def State.fullReset (cause : ResetCause) (s : State) : State :=
  State.afterReset cause (!s.host.listening) s.pending

end Sys2Proof.Machine
end

