-- ==== Sys2Proof/Machine/Scheduling.lean ====
section
/-!
DEFINITION. The Line Scheduler (chapter 3): candidates and their values, the selection and the commitment.
-/

namespace Sys2Proof.Machine

/-- The call a station's due time stands for (R3, R61). -/
inductive DueCall where
  | poll | recoveryPoll | probe
  deriving DecidableEq, Repr

/-- R61: which call the state of an entry makes it a candidate for. -/
def Station.dueCall? (e : Station) : Option DueCall :=
  match e.state with
  | .online => if 1 ≤ e.level then some .poll else none
  | .suspect => some .recoveryPoll
  | .probing => some .probe
  | .lost => some .probe
  | .vacant => none
  | .parked => none

/-- R61: a candidate for the next exchange. -/
inductive Candidate where
  | request (r : Request)
  | due (call : DueCall) (a : Addr) (d : DueTime)
  deriving DecidableEq, Repr

/-- R61: a station's own poll, recovery poll or probe, once its due time is reached. -/
def Station.candidate? (now : Clock) (a : Addr) (e : Station) : Option Candidate :=
  match e.dueCall?, e.nextDue with
  | some call, some d => if d.isReached now then some (.due call a d) else none
  | some _, none => none
  | none, _ => none

/-- The station candidates in ascending address order. -/
def State.dueCandidates (s : State) : List Candidate :=
  (List.finRange 31).filterMap fun a => (s.station a).candidate? s.clock a

/-- R61: every candidate, the requests in acceptance order first, then the stations by address. -/
def State.candidates (s : State) : List Candidate := s.eligible.map .request ++ s.dueCandidates

/-- R62: the value a late poll competes with. -/
def agedValue (base lateness period : Nat) : Nat := min 7 (base + lateness / period)

/-- R62: the value of a candidate. -/
def State.value (s : State) : Candidate → Nat
  | .request r => r.urgency
  | .due .poll a d => agedValue (s.station a).level (d.lateness s.clock) (s.station a).period
  | .due .recoveryPoll a d =>
    agedValue (max (s.station a).level 1) (d.lateness s.clock) (s.station a).period
  | .due .probe _ _ => 1

/-- R63: a request beats a poll or recovery poll, which beats a probe. -/
def Candidate.classRank : Candidate → Nat
  | .request _ => 2
  | .due .poll _ _ => 1
  | .due .recoveryPoll _ _ => 1
  | .due .probe _ _ => 0

/-- R63: within a class of due times the greater lateness is the earlier due time. -/
def Candidate.lateness (now : Clock) : Candidate → Nat
  | .request _ => 0
  | .due _ _ d => d.lateness now

/-- R63: `c` is chosen over `b`, which stands before it in acceptance or address order. -/
def State.beats (s : State) (c b : Candidate) : Bool :=
  s.value b < s.value c ||
    (s.value b == s.value c &&
      (b.classRank < c.classRank ||
        (b.classRank == c.classRank && b.lateness s.clock < c.lateness s.clock)))

/-- R63: the best of a list; on a full tie the one that stands first. -/
def State.bestOf (s : State) : List Candidate → Option Candidate
  | [] => none
  | c :: rest =>
    match s.bestOf rest with
    | none => some c
    | some b => if s.beats b c then some b else some c

/-- R38, R67: the exchange record of a request; a PUT takes the toggle of its station. -/
def State.requestRecord (s : State) (r : Request) : ExchangeRecord where
  origin := .request r.tag
  station := r.station
  kind := match r.kind with
    | .put => .put
    | .get => .get
    | .broadcast => .bcast
  payload := r.payload
  toggleSent := match r.kind, r.station with
    | .put, some a => some (s.station a).toggle
    | .put, none => none
    | .get, _ => none
    | .broadcast, _ => none
  imageLength := none
  orphaned := false

/-- R67: the exchange record of a poll, recovery poll or probe, with its anchor and, for a POLL, the image
length of the entry. -/
def State.dueRecord (s : State) (call : DueCall) (a : Addr) (d : DueTime) : ExchangeRecord where
  origin := match call with
    | .poll => .poll d
    | .recoveryPoll => .recoveryPoll d
    | .probe => .probe d
  station := some a
  kind := match call with
    | .poll => .poll
    | .recoveryPoll => .poll
    | .probe => .hail
  payload := []
  toggleSent := none
  imageLength := match call with
    | .poll => some (s.station a).imageLength
    | .recoveryPoll => some (s.station a).imageLength
    | .probe => none
  orphaned := false

/-- R92: the exchange in GAP asserts LDE and begins its call once the line allows it. -/
def LineEngine.tryStart (e : LineEngine) : LineEngine :=
  match e.exchange with
  | none => e
  | some x =>
    match x.phase with
    | .gap =>
      if e.maySend then { e with exchange := some { x with phase := .sending 0 0 0 }, lde := true } else e
    | .sending _ _ _ => e
    | .await _ _ => e
    | .receiving => e
    | .settle => e

/-- R67, R92: the commitment moves the Line Engine from IDLE into GAP, and through it at the same event when
the line has been quiet for the gap. -/
def LineEngine.commit (r : ExchangeRecord) (e : LineEngine) : LineEngine :=
  LineEngine.tryStart { e with exchange := some ⟨r, .gap⟩ }

/-- R67: the commitment of the chosen candidate. -/
def State.commit (c : Candidate) (s : State) : State :=
  match c with
  | .request r =>
    (s.updateRequest r.tag fun r => { r with state := .onLine }).withEngine
      (LineEngine.commit (s.requestRecord r))
  | .due call a d =>
    (s.withStation a fun e => { e with nextDue := none }).withEngine (LineEngine.commit (s.dueRecord call a d))

/-- R64: the three conditions of a selection. -/
def State.maySelect (s : State) : Bool :=
  s.engine.exchange.isNone && s.engine.role == .master && !s.fallback.pending

/-- R64, R66: a selection, at an event that brings the conditions about or creates a candidate; none is made
where no candidate exists. -/
def State.select (s : State) : State :=
  if s.maySelect then
    match s.bestOf s.candidates with
    | none => s
    | some c => s.commit c
  else s

/-- R64: a selection at an event only if the event has created a candidate. -/
def State.selectIf (created : Bool) (s : State) : State := if created then s.select else s

end Sys2Proof.Machine
end

