-- ==== Sys2Proof/Machine/StationTable.lean ====
section
/-!
DEFINITION. The Station Table's own operations (chapter 1) with the due times the timetable sets for them
(chapter 3): what an exchange's outcome does to an entry, entry into LOST, images, orphaning and the MODIFY
parts.
-/

namespace Sys2Proof.Machine

/-! ### Orphans (R110) and polls in progress (R7) -/

/-- R110: an exchange whose record names the station is marked orphaned. -/
def LineEngine.orphan (a : Addr) (e : LineEngine) : LineEngine :=
  { e with exchange := e.exchange.map fun x =>
      if x.record.station = some a then { x with record := { x.record with orphaned := true } } else x }

def Origin.isPoll : Origin → Bool
  | .poll _ => true
  | .recoveryPoll _ => true
  | .probe _ => false
  | .request _ => false
  | .fallback => false

/-- R7: a poll for the station is committed or on the line. -/
def LineEngine.pollInProgress (a : Addr) (e : LineEngine) : Bool :=
  match e.exchange with
  | none => false
  | some x => x.record.station == some a && x.record.origin.isPoll && !x.record.orphaned

/-! ### Entry into LOST (R22) -/

/-- R22: entry into LOST, from ONLINE or SUSPECT: the entry, the STATION report, then the cascade. -/
def State.enterLost (a : Addr) (fromState : StationState) (s : State) : State :=
  let lost := s.withStation a fun e =>
    { e with
      state := .lost
      missCount := e.missLimit
      reportedImage := none
      nextDue := some (DueTime.ahead s.clock s.engine.params.probeInterval) }
  (lost.putReport (.station a fromState .lost .misses none 0)).removeWaiting a .stationLost

/-! ### Images (R26, R27) -/

/-- R27: two images differ in a bit the watch mask holds at 1. -/
def differsUnder : List Byte → List Byte → List Byte → Bool
  | m :: mask, x :: xs, y :: ys => ((x ^^^ y) &&& m != 0#8) || differsUnder mask xs ys
  | [], _, _ => false
  | _ :: _, [], _ => false
  | _ :: _, _ :: _, [] => false

/-- R27: does the new image call for an IMAGE report? -/
def Station.reportsImage (e : Station) (image : List Byte) : Bool :=
  match e.reportMode with
  | .every => true
  | .silent => false
  | .changes =>
    match e.reportedImage with
    | none => true
    | some old => differsUnder e.watchMask old image

/-- R26, R27: the data of a GOOD poll whose recorded image length is still the entry's. -/
def State.storeImage (a : Addr) (data : List Byte) (s : State) : State :=
  let e := s.station a
  if e.reportsImage data then
    (s.setStation a { e with image := some data, reportedImage := some data }).putReport
      (.image a e.imageLength data 0)
  else s.setStation a { e with image := some data }

/-- R26: image handling after a GOOD poll; with another recorded length the data is discarded. -/
def State.handleImage (a : Addr) (recorded : Option Nat) (data : List Byte) (s : State) : State :=
  if recorded = some (s.station a).imageLength then s.storeImage a data else s

/-! ### Due times after a poll (R58) -/

/-- R58: the next poll on the period grid of the anchor, counting the grid points passed over; after a
saturated lateness the grid is abandoned. -/
def Station.nextOnGrid (now : Clock) (anchor : DueTime) (e : Station) : Station :=
  if anchor.lateness now = Config.latenessCap then
    { e with
      nextDue := some (DueTime.ahead now e.period)
      pollOverruns := satAdd e.pollOverruns (Config.latenessCap / e.period) }
  else
    let passed := msSince now anchor.time / e.period
    { e with
      nextDue := some ⟨msAfter anchor.time ((passed + 1) * e.period), false, false⟩
      pollOverruns := satAdd e.pollOverruns passed }

/-- R58, R59: the next due time of a station that is ONLINE after a poll. -/
def Station.afterPoll (now : Clock) (anchor : DueTime) (e : Station) : Station :=
  if 1 ≤ e.level then e.nextOnGrid now anchor else { e with nextDue := none }

/-- R21: a request returns a SUSPECT station to ONLINE: the recovery poll is kept as the next poll, or removed
at level 0. -/
def Station.afterRequestAnswer (e : Station) : Station :=
  if 1 ≤ e.level then e else { e with nextDue := none }

/-! ### Outcomes at the entry (R17 to R24) -/

/-- What the Line Engine delivers of a completed exchange (R17, R104). -/
structure Delivery where
  record : ExchangeRecord
  outcome : ExOutcome
  data : List Byte
  deriving DecidableEq, Repr

/-- R104: the identity a GOOD HAIL carries. -/
def identityOf (data : List Byte) : Identity :=
  match data with
  | hi :: lo :: rev :: _ => ⟨halfOf hi lo, rev⟩
  | _ => ⟨0, 0⟩

/-- R18: the counters and the last fault; R28: the toggle. -/
def Station.count (now : Clock) (d : Delivery) (e : Station) : Station :=
  let e1 :=
    if d.record.kind = .hail then
      (if d.outcome = .good then e else { e with probeMisses := satInc e.probeMisses })
    else if d.outcome.isMiss then { e with missedExchanges := satInc e.missedExchanges }
    else { e with goodExchanges := satInc e.goodExchanges }
  let e2 :=
    if d.outcome.isMiss then { e1 with lastFault := some ⟨d.outcome, d.record.kind, now⟩ } else e1
  if d.record.kind = .put && d.outcome.isAnswer then { e2 with toggle := !e2.toggle } else e2

/-- R19, R23: the station is found or has returned. -/
def Station.found (now : Clock) (identity : Identity) (e : Station) : Station :=
  { e with
    state := .online
    identity := some identity
    missCount := 0
    toggle := false
    nextDue := if 1 ≤ e.level then some (DueTime.atOnce now) else none }

/-- R19, R23: a unit of another identity answered. -/
def Station.mismatched (identity : Identity) (e : Station) : Station :=
  { e with state := .parked, identity := some identity, missCount := 0, nextDue := none }

/-- R19, R23: a GOOD HAIL, judged against the identity that must match, if any. -/
def State.hailAnswered (a : Addr) (must : Option Identity) (identity : Identity) (reason : StationReason)
    (s : State) : State :=
  let e := s.station a
  if must = none ∨ must = some identity then
    (s.setStation a (e.found s.clock identity)).putReport (.station a e.state .online reason (some identity) 0)
  else
    (s.setStation a (e.mismatched identity)).putReport
      (.station a e.state .parked .identityMismatch (some identity) 0)

/-- R19, R23, R57: the next probe after a miss or a NAK. -/
def State.probeAgain (a : Addr) (s : State) : State :=
  s.withStation a fun e => { e with nextDue := some (DueTime.ahead s.clock s.engine.params.probeInterval) }

/-- R20, R21: an answer to a poll or a request of an ONLINE or SUSPECT station. -/
def Station.answered (now : Clock) (origin : Origin) (e : Station) : Station :=
  let wasSuspect := e.state == .suspect
  let e := { e with state := .online, missCount := 0 }
  match origin with
  | .poll anchor => e.afterPoll now anchor
  | .recoveryPoll anchor => e.afterPoll now anchor
  | .request _ => if wasSuspect then e.afterRequestAnswer else e
  | .probe _ => e
  | .fallback => e

/-- R20, R21: the miss count after a miss: 1 for an ONLINE station, one more for a SUSPECT one. -/
def Station.countMiss (e : Station) : Nat := if e.state = .online then 1 else e.missCount + 1

/-- R20, R21: a miss of an ONLINE or SUSPECT station. -/
def State.missed (a : Addr) (s : State) : State :=
  let e := s.station a
  if e.countMiss < e.missLimit then
    s.setStation a
      { e with state := .suspect, missCount := e.countMiss, nextDue := some (DueTime.atOnce s.clock) }
  else s.enterLost a e.state

/-- R17: the Station Table applies a delivered outcome by the state of the entry and the kind of call. -/
def State.applyOutcome (a : Addr) (d : Delivery) (s : State) : State :=
  let s := s.withStation a (Station.count s.clock d)
  let e := s.station a
  match e.state with
  | .probing =>
    if d.record.kind = .hail then
      (if d.outcome = .good then s.hailAnswered a e.expected (identityOf d.data) .found else s.probeAgain a)
    else s
  | .lost =>
    if d.record.kind = .hail then
      (if d.outcome = .good then s.hailAnswered a (e.expected.or e.identity) (identityOf d.data) .returned
       else s.probeAgain a)
    else s.removeWaiting a .stationLost
  | .online | .suspect =>
    if d.record.kind = .hail then s
    else if d.outcome.isMiss then s.missed a
    else
      let s := s.withStation a (Station.answered s.clock d.record.origin)
      if d.record.kind = .poll && d.outcome == .good then s.handleImage a d.record.imageLength d.data else s
  | .vacant => s
  | .parked => s

/-! ### Undone commitments (R69) -/

/-- R69: an undone poll, recovery poll or probe returns its anchor where the station's state still calls for
that call. -/
def Station.restoreAnchor (origin : Origin) (e : Station) : Station :=
  match origin, e.state with
  | .poll anchor, .online => if 1 ≤ e.level then { e with nextDue := some anchor } else e
  | .recoveryPoll anchor, .suspect => { e with nextDue := some anchor }
  | .probe anchor, .probing => { e with nextDue := some anchor }
  | .probe anchor, .lost => { e with nextDue := some anchor }
  | _, _ => e

/-! ### ENROL and MODIFY (R5, R7 to R11) -/

/-- R5: the entry an ENROL makes. -/
def Station.enrolled (now : Clock) (p : EnrolParams) : Station :=
  { Station.reset with
    state := .probing
    level := p.level
    period := p.period
    imageLength := p.imageLength
    reportMode := p.reportMode
    watchMask := p.watchMask.getD (List.replicate p.imageLength 0xFF#8)
    missLimit := p.missLimit.getD Config.defaultMissLimit
    expected := p.expected
    nextDue := some (DueTime.atOnce now) }

/-- R9: an image length that differs changes the geometry; R10: a mask alone replaces the mask. -/
def Station.setGeometry (length : Option Nat) (mask : Option (List Byte)) (e : Station) : Station :=
  let n := length.getD e.imageLength
  if n = e.imageLength then { e with watchMask := mask.getD e.watchMask }
  else
    { e with
      imageLength := n
      image := none
      reportedImage := none
      watchMask := mask.getD (List.replicate n 0xFF#8) }

/-- R7: raising the level of an ONLINE station from 0 makes a poll due at once, unless one is in progress. -/
def Station.raisesPoll (inProgress : Bool) (level : Option Nat) (e : Station) : Bool :=
  match level with
  | none => false
  | some l => e.state == .online && e.level == 0 && decide (1 ≤ l) && !inProgress

/-- R7: a level given in MODIFY. -/
def Station.setLevel (now : Clock) (inProgress : Bool) (level : Option Nat) (e : Station) : Station :=
  match level with
  | none => e
  | some l =>
    if e.raisesPoll inProgress (some l) then { e with level := l, nextDue := some (DueTime.atOnce now) }
    else if e.state = .online ∧ l = 0 then { e with level := 0, nextDue := none }
    else { e with level := l }

/-- R8, R70: a due time more than one new period ahead is pulled in to now plus the new period. -/
def DueTime.pullIn (now : Clock) (period : Nat) (d : DueTime) : DueTime :=
  if d.isReached now || d.arrived now then d
  else if period < msSince d.time now then DueTime.ahead now period
  else d

/-- R8: a period given in MODIFY. -/
def Station.setPeriod (now : Clock) (period : Option Nat) (e : Station) : Station :=
  match period with
  | none => e
  | some p =>
    match e.state with
    | .online => { e with period := p, nextDue := e.nextDue.map (DueTime.pullIn now p) }
    | .suspect => { e with period := p, nextDue := e.nextDue.map (DueTime.pullIn now p) }
    | .vacant => { e with period := p }
    | .probing => { e with period := p }
    | .lost => { e with period := p }
    | .parked => { e with period := p }

/-- R10: a report mode given in MODIFY. -/
def Station.setMode (mode : Option ReportMode) (e : Station) : Station :=
  { e with reportMode := mode.getD e.reportMode }

/-- R11: a miss limit given in MODIFY. -/
def State.setMissLimit (a : Addr) (limit : Option Nat) (s : State) : State :=
  match limit with
  | none => s
  | some l =>
    let e := s.station a
    match e.state with
    | .suspect =>
      if l ≤ e.missCount then (s.setStation a { e with missLimit := l }).enterLost a .suspect
      else s.setStation a { e with missLimit := l }
    | .lost => s.setStation a { e with missLimit := l, missCount := l }
    | .vacant => s.setStation a { e with missLimit := l }
    | .probing => s.setStation a { e with missLimit := l }
    | .online => s.setStation a { e with missLimit := l }
    | .parked => s.setStation a { e with missLimit := l }

/-- R6 to R10: the given parameters but the miss limit, in their order: image length, watch mask, level, period, report
mode. -/
def Station.modified (now : Clock) (inProgress : Bool) (p : ModifyParams) (e : Station) : Station :=
  (((e.setGeometry p.imageLength p.watchMask).setLevel now inProgress p.level).setPeriod now p.period).setMode
    p.reportMode

/-- R6, R11: all the given parameters, the miss limit last. -/
def State.modifyStation (p : ModifyParams) (s : State) : State :=
  (s.withStation p.address
    (Station.modified s.clock (s.engine.pollInProgress p.address) p)).setMissLimit p.address p.missLimit

end Sys2Proof.Machine
end

