-- ==== Sys2Proof/Machine/Exchanges.lean ====
section
/-!
DEFINITION. The Line Engine's exchanges (chapter 5), the fate of requests (chapter 2), contention and role
changes (chapter 6) and the steps of a fallback (chapter 10): how a reply is classified, how an exchange
completes, collides or is undone, and what follows.
-/

namespace Sys2Proof.Machine

/-! ### Classification of a complete reply (R102 to R104) -/

/-- R103: a reply kind is accepted for the call kind, with a length the kind allows. -/
def replyAccepted (call : CallKind) (reply : Option ReplyKind) (length : Nat) : Bool :=
  match call, reply with
  | .poll, some .data => length ≤ 32
  | .poll, some .nak => length == 1
  | .put, some .ack => length == 0
  | .put, some .nak => length == 1
  | .get, some .data => length ≤ 32
  | .get, some .nak => length == 1
  | .hail, some .ident => length == 3
  | .hail, some .nak => length == 1
  | _, _ => false

/-- The payload of a complete telegram: what stands between the length and the two CRC characters (R76). -/
def telegramPayload (chars : List Byte) : List Byte := (chars.drop 3).take (chars.length - 5)

/-- The character at a place of a telegram. -/
def charAt (chars : List Byte) (n : Nat) : Byte := chars.getD n 0#8

/-- R102: the six checks in order. `chars` is the whole telegram with its CRC. -/
def ExchangeRecord.classify (r : ExchangeRecord) (chars : List Byte) : ExOutcome :=
  let header := charAt chars 0
  let kind := headerReplyKind? header
  let payload := telegramPayload chars
  if crc16 chars ≠ 0#16 then .garbled .crc
  else if charAt chars 1 ≠ destByte r.station then .wrongSource
  else if !replyAccepted r.kind kind payload.length then .garbled .wrongKind
  else if r.kind = .put ∧ r.toggleSent ≠ some (headerToggle header) then .stale
  else if r.kind = .poll ∧ kind = some .data ∧ r.imageLength ≠ some payload.length then .garbled .badLength
  else if kind = some .nak then .refused (charAt payload 0)
  else .good

/-! ### The fate of a request (R40 to R44) -/

/-- R40: a delivered outcome other than COLLISION counts as an attempt and becomes the last outcome. -/
def Request.attempted (outcome : ExOutcome) (r : Request) : Request :=
  { r with attempts := r.attempts + 1, lastOutcome := some outcome }

/-- R42, R44: the fate of a request after a miss; `none` is the return to WAITING. -/
def Request.missFate (now : Clock) (orphaned : Bool) (r : Request) : Option RequestResult :=
  if orphaned then some .failed
  else if r.allowance < r.attempts then some .failed
  else if r.deadlinePassed now then some .expired
  else none

/-- R41 to R44: the final result an outcome gives a request already counted, or the return to WAITING. -/
def Request.fate (now : Clock) (orphaned : Bool) (outcome : ExOutcome) (r : Request) : Option RequestResult :=
  match outcome with
  | .good => some .done
  | .refused _ => some .refused
  | .sent => some .sent
  | .noReply => r.missFate now orphaned
  | .garbled _ => r.missFate now orphaned
  | .wrongSource => r.missFate now orphaned
  | .stale => r.missFate now orphaned
  | .collision _ => none

/-- R50: only a GET with result DONE carries its reply data. -/
def Request.resultData (r : Request) (data : List Byte) : List Byte := if r.kind = .get then data else []

/-- R40: the Call Queue decides the fate of the request served from the outcome alone. -/
def State.decideRequest (tag : Half) (d : Delivery) (s : State) : State :=
  let s := s.updateRequest tag (Request.attempted d.outcome)
  match s.findRequest tag with
  | none => s
  | some r =>
    match r.fate s.clock d.record.orphaned d.outcome with
    | none => s.updateRequest tag fun r => { r with state := .waiting }
    | some .done => s.completeRequest tag .done (r.resultData d.data)
    | some result => s.completeRequest tag result []

/-! ### Undoing a commitment (R36, R39, R44, R69, R108, R109) -/

/-- R39, R44: a request whose commitment is undone; `collision` is the outcome of a COLLISION, absent for
LINE_STOP. -/
def State.undoRequest (tag : Half) (orphaned : Bool) (collision : Option ExOutcome) (s : State) : State :=
  let s := s.updateRequest tag fun r => { r with lastOutcome := collision.or r.lastOutcome }
  match s.findRequest tag with
  | none => s
  | some r =>
    if orphaned then s.completeRequest tag .cancelled []
    else if r.deadlinePassed s.clock then s.completeRequest tag .expired []
    else s.updateRequest tag fun r => { r with state := .waiting }

/-- R69: an undone poll, recovery poll or probe; an orphaned one touches nothing (R14). -/
def State.undoDue (record : ExchangeRecord) (s : State) : State :=
  match record.station with
  | none => s
  | some a => if record.orphaned then s else s.withStation a (Station.restoreAnchor record.origin)

/-- R36: an undone request of a station that MODIFY has made LOST meanwhile does not stay WAITING: the cascade
its station's state demands removes it with STATION_LOST (DEDUCED, log 24). -/
def State.cascadeUndone (record : ExchangeRecord) (s : State) : State :=
  match record.station with
  | none => s
  | some a => if !record.orphaned && (s.station a).state == .lost then s.removeWaiting a .stationLost else s

/-- R108, R109: the commitment is undone and the exchange is over. -/
def State.undoCommitment (record : ExchangeRecord) (collision : Option ExOutcome) (s : State) : State :=
  let s := s.withEngine fun e => { e with exchange := none }
  match record.origin with
  | .request tag => (s.undoRequest tag record.orphaned collision).cascadeUndone record
  | .poll _ => s.undoDue record
  | .recoveryPoll _ => s.undoDue record
  | .probe _ => s.undoDue record
  | .fallback => s

/-! ### Role changes and fallback (R114, R128, R187, R191, R192) -/

/-- A LINE report with merge count 0 (R128). -/
def lineReport (fromRole toRole : LineRole) (reason : LineReason) (detail : LineDetail) : Report :=
  .line fromRole toRole reason detail 0

/-- R127, R189: the role takes a value other than MASTER: the silence timer stops and fallback pending is
cleared; the phase is what is left of the fallback (R187). -/
def State.leaveMaster (role : LineRole) (phase : FallbackPhase) (s : State) : State :=
  (s.withEngine fun e => { e with role := role }).withFallback fun f =>
    { f with timer := none, pending := false, phase := phase }

/-- R117, R121: the role becomes MASTER: the silence timer restarts and a selection is made. -/
def State.becomeMaster (s : State) : State :=
  (s.withEngine fun e => { e with role := .master }).restartSilence.select

/-- R192: the fallback ends; the from-role is the role it ends in. -/
def State.endFallback (detail : LineDetail) (s : State) : State :=
  (s.leaveMaster .off .none).putReport (lineReport s.engine.role .off .fallback detail)

/-- R191: the record of the fallback broadcast. -/
def fallbackRecord (payload : List Byte) : ExchangeRecord where
  origin := .fallback
  station := none
  kind := .bcast
  payload := payload
  toggleSent := none
  imageLength := none
  orphaned := false

/-- R190, R191, R192: a pending fallback with the Line Engine IDLE commits the broadcast, or ends OMITTED. -/
def State.advanceFallback (s : State) : State :=
  match s.fallback.payload with
  | none => s.endFallback .omitted
  | some payload =>
    (s.withFallback fun f => { f with phase := .broadcast }).withEngine
      (LineEngine.commit (fallbackRecord payload))

/-! ### Completion (R106, R107) -/

/-- R112: the line counters at a completion. -/
def LineCounters.completed (outcome : ExOutcome) (c : LineCounters) : LineCounters :=
  if outcome.isAnswer then { c with goodReplies := satInc c.goodReplies }
  else if outcome.isMiss then { c with misses := satInc c.misses }
  else c

/-- R107, R65: the Call Queue first, then the Station Table with its due time and its cascade; an orphan does
not reach the Station Table (R14). -/
def State.dispatch (d : Delivery) (s : State) : State :=
  let s := match d.record.origin with
    | .request tag => s.decideRequest tag d
    | .poll _ => s
    | .recoveryPoll _ => s
    | .probe _ => s
    | .fallback => s
  match d.record.station with
  | none => s
  | some a => if d.record.orphaned then s else s.applyOutcome a d

/-- R106: what follows the completion of an exchange, by role and fallback. -/
def State.afterCompletion (record : ExchangeRecord) (s : State) : State :=
  match s.engine.role with
  | .master =>
    if record.origin = .fallback then s.endFallback .sent
    else if s.fallback.pending then s.advanceFallback
    else s.select
  | .stopping =>
    if record.origin = .fallback then s.endFallback .sent
    else (s.leaveMaster .off .none).putReport (lineReport .stopping .off .stopped .none)
  | .off => s
  | .yielded => s

/-- R106: the exchange in progress completes with an outcome other than COLLISION. -/
def State.completeExchange (outcome : ExOutcome) (data : List Byte) (s : State) : State :=
  match s.engine.exchange with
  | none => s
  | some x =>
    let s := s.withEngine fun e =>
      { e with exchange := none, lde := false, counters := e.counters.completed outcome }
    (s.dispatch ⟨x.record, outcome, data⟩).afterCompletion x.record

/-! ### Contention (R123 to R125, R191) -/

/-- R124, R125: the role after a contention, and its LINE report. -/
def State.contentionRole (detail : CollisionDetail) (s : State) : State :=
  match s.engine.role with
  | .master =>
    (s.leaveMaster .yielded .none).putReport (lineReport .master .yielded .contention detail.toLine)
  | .stopping =>
    (s.leaveMaster .off .none).putReport (lineReport .stopping .off .stopped detail.toLine)
  | .off => s
  | .yielded => s

/-- R124: raise the contentions counter. -/
def State.countContention (s : State) : State :=
  s.withLineCounters fun c => { c with contentions := satInc c.contentions }

/-- R124, first: LDE is released; the framer enters SKIPPING if the call's last echo was still to come (R81). -/
def LineEngine.dropLine (e : LineEngine) : LineEngine :=
  if e.lde then { e with lde := false, framer := .skipping } else e

/-- R108, R124, R125, R191: the exchange in progress ends in COLLISION. -/
def State.collide (detail : CollisionDetail) (s : State) : State :=
  match s.engine.exchange with
  | none => s
  | some x =>
    let s := s.withEngine LineEngine.dropLine
    let s := (s.undoCommitment x.record (some (.collision detail))).countContention
    if x.record.origin = .fallback then s.endFallback .disturbed else s.contentionRole detail

/-- R123, R124: a foreign call heard in MASTER with the Line Engine IDLE. -/
def State.idleContention (s : State) : State := s.countContention.contentionRole .foreignCall

end Sys2Proof.Machine
end

