-- ==== Sys2Proof/Machine/CommandUnit.lean ====
section
/-!
DEFINITION. What each of the twenty commands does at its take (chapters 1, 2, 6, 8, 9, 10), the decoding of a
COMMAND body (R173), the response and its cache (R163, R164, R176), the ready slot (R160) and the take (R162).
-/

namespace Sys2Proof.Machine

/-- A command's answer: its status, its response data, and the state it leaves. -/
structure Answer where
  status : Status
  data : List Byte
  state : State
  deriving DecidableEq, Repr

/-- A refusal leaves the state as it stood and carries no data (R173, R176). -/
def refuse (status : Status) (s : State) : Answer := ⟨status, [], s⟩

/-- An OK without data. -/
def accept (s : State) : Answer := ⟨.ok, [], s⟩

/-- Checks 3 and 4 of R173 in front of the owning block. -/
def checked {ρ π : Type} (layout : List Byte → Option ρ) (range : ρ → Option π) (carry : π → State → Answer)
    (params : List Byte) (s : State) : Answer :=
  match layout params with
  | none => refuse .malformed s
  | some raw =>
    match range raw with
    | none => refuse .outOfRange s
    | some p => carry p s

/-- Check 3 for a command without parameters (R174). -/
def bare (carry : State → Answer) (params : List Byte) (s : State) : Answer :=
  match params with
  | [] => carry s
  | _ :: _ => refuse .malformed s

/-- R176: the responses of the four line commands carry the role after the command in every status. -/
def Answer.withRole (a : Answer) : Answer := { a with data := [a.state.engine.role.code] }

/-! ### Device commands -/

/-- IDENTIFY (R177). -/
def State.identify (params : List Byte) (s : State) : Answer := bare (fun s => ⟨.ok, identifyData, s⟩) params s

/-- R179: the twelve counters a STATUS with clear flag 1 sets to 0. -/
def State.clearCounters (s : State) : State :=
  ((s.withHostCounters fun _ => HostCounters.zero).withLineCounters fun _ => LineCounters.zero).withReports
    fun u => { u with unknownAcks := 0, retransmissions := 0 }

/-- STATUS (R178, R179): the view is placed before the clear. -/
def State.statusView (params : List Byte) (s : State) : Answer :=
  checked layoutStatus rangeStatus
    (fun clear s => ⟨.ok, statusData s, if clear then s.clearCounters else s⟩) params s

/-- RESTART (R182): the full reset follows the delivery of the response. -/
def State.restart (params : List Byte) (s : State) : Answer :=
  bare (fun s => accept (s.withUnit fun u => { u with pendingRestart := true })) params s

/-- LINK_SETUP (R167): the ack timeout at once, the rate as the pending rate. -/
def State.linkSetup (params : List Byte) (s : State) : Answer :=
  checked layoutLinkSetup rangeLinkSetup
    (fun p s => accept ((s.withReports fun u => { u with ackTimeout := p.ackTimeout }).withHost
      fun h => { h with pendingRate := some p.rate })) params s

/-- R188: the silence timer after FALLBACK_SET. -/
def State.setFallback (p : FallbackParams) (s : State) : State :=
  let s1 := s.withFallback fun f => { f with limit := p.limit, payload := p.payload }
  if s1.fallback.armed then s1.restartSilence else s1.withFallback fun f => { f with timer := none }

/-- FALLBACK_SET (R188). -/
def State.fallbackSet (params : List Byte) (s : State) : Answer :=
  checked layoutFallbackSet rangeFallbackSet (fun p s => accept (s.setFallback p)) params s

/-! ### Line commands -/

/-- R116: a change of the rate or the gap puts the framer into SKIPPING and abandons a character that is
being received. -/
def LineEngine.setParams (p : LineParams) (e : LineEngine) : LineEngine :=
  if p.rate = e.params.rate ∧ p.gap = e.params.gap then { e with params := p }
  else { e with params := p, framer := .skipping, charInProgress := false }

/-- LINE_SETUP (R116). -/
def State.lineSetup (params : List Byte) (s : State) : Answer :=
  (checked layoutLineSetup rangeLineSetup
    (fun p s =>
      match s.engine.role with
      | .off => accept (s.withEngine (LineEngine.setParams p))
      | .master => refuse .wrongRole s
      | .stopping => refuse .wrongRole s
      | .yielded => refuse .wrongRole s) params s).withRole

/-- LINE_START (R117). -/
def State.lineStart (params : List Byte) (s : State) : Answer :=
  (bare (fun s =>
    match s.engine.role with
    | .off => accept s.becomeMaster
    | .master => refuse .wrongRole s
    | .stopping => refuse .wrongRole s
    | .yielded => refuse .wrongRole s) params s).withRole

/-- R118: LINE_STOP taken in MASTER. -/
def State.stopMaster (s : State) : State :=
  match s.engine.exchange with
  | none => s.leaveMaster .off .none
  | some x =>
    match x.phase with
    | .gap => (s.undoCommitment x.record none).leaveMaster .off .none
    | .sending _ _ _ | .await _ _ | .receiving | .settle =>
      s.leaveMaster .stopping (if x.record.origin = .fallback then .broadcast else .none)

/-- LINE_STOP (R118, R119). -/
def State.lineStop (params : List Byte) (s : State) : Answer :=
  (bare (fun s =>
    match s.engine.role with
    | .master => accept s.stopMaster
    | .yielded => accept (s.leaveMaster .off .none)
    | .off => accept s
    | .stopping => accept s) params s).withRole

/-- LINE_RESUME (R121). -/
def State.lineResume (params : List Byte) (s : State) : Answer :=
  (bare (fun s =>
    match s.engine.role with
    | .yielded =>
      if s.engine.isQuiet && decide (s.engine.params.quietInterval ≤ s.engine.quietMs s.clock) then
        accept s.becomeMaster
      else refuse .lineActive s
    | .off => refuse .wrongRole s
    | .master => refuse .wrongRole s
    | .stopping => refuse .wrongRole s) params s).withRole

/-! ### Station commands -/

/-- R4, R5: ENROL at the Station Table. -/
def State.enrolStation (p : EnrolParams) (s : State) : Answer :=
  match (s.station p.address).state with
  | .vacant | .parked => accept ((s.setStation p.address (Station.enrolled s.clock p)).select)
  | .probing | .online | .suspect | .lost => refuse .alreadyEnrolled s

/-- ENROL (R4, R5). -/
def State.enrol (params : List Byte) (s : State) : Answer :=
  checked layoutEnrol rangeEnrol State.enrolStation params s

/-- R6, R64: MODIFY at the Station Table; a raised level that makes a poll due can cause a selection. -/
def State.modifyEntry (p : ModifyParams) (s : State) : Answer :=
  match (s.station p.address).state with
  | .vacant => refuse .notEnrolled s
  | .probing | .online | .suspect | .lost | .parked =>
    accept ((s.modifyStation p).selectIf
      ((s.station p.address).raisesPoll (s.engine.pollInProgress p.address) p.level))

/-- MODIFY (R6 to R11). -/
def State.modify (params : List Byte) (s : State) : Answer :=
  checked layoutModify (rangeModify fun a => (s.station a).imageLength) State.modifyEntry params s

/-- R12: the entry of a parked station. -/
def Station.parked (e : Station) : Station := { e with state := .parked, missCount := 0, nextDue := none }

/-- R12: PARK at the Station Table. -/
def State.parkStation (a : Addr) (s : State) : Answer :=
  match (s.station a).state with
  | .vacant => refuse .notEnrolled s
  | .parked => accept s
  | .probing | .online | .suspect | .lost =>
    accept (((s.withStation a Station.parked).removeWaiting a .cancelled).withEngine (LineEngine.orphan a))

/-- PARK (R12). -/
def State.park (params : List Byte) (s : State) : Answer :=
  checked layoutAddress addrOfByte? State.parkStation params s

/-- R13: RELEASE at the Station Table. -/
def State.releaseStation (a : Addr) (s : State) : Answer :=
  match (s.station a).state with
  | .vacant => refuse .notEnrolled s
  | .probing | .online | .suspect | .lost | .parked =>
    accept (((s.setStation a Station.reset).removeWaiting a .cancelled).withEngine (LineEngine.orphan a))

/-- RELEASE (R13). -/
def State.release (params : List Byte) (s : State) : Answer :=
  checked layoutAddress addrOfByte? State.releaseStation params s

/-- STATION_QUERY (R15). -/
def State.stationQuery (params : List Byte) (s : State) : Answer :=
  checked layoutAddress addrOfByte? (fun a s => ⟨.ok, stationData a (s.station a), s⟩) params s

/-- R16: a pair for each entry that is not VACANT, in ascending address order. -/
def rosterData (s : State) : List Byte :=
  (List.finRange 31).flatMap fun a =>
    if (s.station a).state = .vacant then [] else [addrByte a, (s.station a).state.code]

/-- ROSTER (R16). -/
def State.roster (params : List Byte) (s : State) : Answer := bare (fun s => ⟨.ok, rosterData s, s⟩) params s

/-! ### Request commands -/

/-- R29: the record of a newly accepted request. -/
def newRequest (now : Clock) (p : RequestParams) : Request where
  tag := p.tag
  kind := p.kind
  station := p.station
  urgency := p.urgency
  allowance := p.allowance
  deadline := p.deadline
  payload := p.payload
  acceptedAt := now
  attempts := 0
  lastOutcome := none
  state := .waiting

/-- R35, check 5: the station serves requests; a broadcast has no such check. -/
def State.serves (s : State) : Dest → Bool
  | none => true
  | some a =>
    match (s.station a).state with
    | .online => true
    | .suspect => true
    | .vacant => false
    | .probing => false
    | .lost => false
    | .parked => false

/-- R35: the state checks in order and the acceptance; a request that is eligible at once can cause a
selection. -/
def State.acceptRequest (p : RequestParams) (s : State) : Answer :=
  if (s.findRequest p.tag).isSome then refuse .tagInUse s
  else if Config.requestBudget ≤ s.requests.length then refuse .queueFull s
  else if !s.serves p.station then refuse .notOnline s
  else
    let queued := s.withRequests fun rs => rs ++ [newRequest s.clock p]
    ⟨.ok, halfBytes p.tag ++ [natByte queued.requests.length],
      queued.selectIf (queued.eligible.any fun r => r.tag == p.tag)⟩

/-- PUT (R32, R35). -/
def State.put (params : List Byte) (s : State) : Answer :=
  checked layoutPut (rangeStationRequest .put) State.acceptRequest params s

/-- GET (R33, R35). -/
def State.get (params : List Byte) (s : State) : Answer :=
  checked layoutGet (rangeStationRequest .get) State.acceptRequest params s

/-- BROADCAST (R34, R35). -/
def State.broadcast (params : List Byte) (s : State) : Answer :=
  checked layoutBroadcast rangeBroadcast State.acceptRequest params s

/-- R46: CANCEL at the Call Queue; the next request of the station can become head and be selected. -/
def State.cancelRequest (tag : Half) (s : State) : Answer :=
  match s.findRequest tag with
  | none => refuse .unknownTag s
  | some r =>
    match r.state with
    | .waiting =>
      let removed := s.completeRequest tag .cancelled []
      accept (removed.selectIf (removed.hasEligible r.station))
    | .onLine => refuse .inFlight s
    | .reported => refuse .inFlight s

/-- CANCEL (R46): no value of a tag is out of range. -/
def State.cancel (params : List Byte) (s : State) : Answer :=
  checked layoutCancel some State.cancelRequest params s

/-- QUEUE_QUERY (R52). -/
def State.queueQuery (params : List Byte) (s : State) : Answer :=
  bare (fun s => ⟨.ok, s.requests.flatMap requestData, s⟩) params s

/-! ### Carrying out a command (R172, R173) -/

/-- The block's part of a command whose code is known. -/
def State.perform (name : CommandName) (params : List Byte) (s : State) : Answer :=
  match name with
  | .identify => s.identify params
  | .status => s.statusView params
  | .restart => s.restart params
  | .linkSetup => s.linkSetup params
  | .fallbackSet => s.fallbackSet params
  | .lineSetup => s.lineSetup params
  | .lineStart => s.lineStart params
  | .lineStop => s.lineStop params
  | .lineResume => s.lineResume params
  | .enrol => s.enrol params
  | .modify => s.modify params
  | .park => s.park params
  | .release => s.release params
  | .stationQuery => s.stationQuery params
  | .roster => s.roster params
  | .put => s.put params
  | .get => s.get params
  | .broadcast => s.broadcast params
  | .cancel => s.cancel params
  | .queueQuery => s.queueQuery params

/-- R173: checks 1 and 2, then the command. -/
def State.answer (body : List Byte) (s : State) : Answer :=
  match body with
  | [] => refuse .malformed s
  | code :: params =>
    match CommandName.ofCode? code with
    | none => refuse .unknownCommand s
    | some name => s.perform name params

/-- R173, R198: the code echoed is the first byte of the body, 00h for an empty body. -/
def echoedCode (body : List Byte) : Byte := body.headD 0#8

/-- R172, R164: the response built is placed in the response slot and replaces the cache. -/
def State.respond (r : Response) (s : State) : State :=
  (s.withUnit fun u => { u with responseSlot := some r }).withHost fun h => { h with cache := some r }

/-- R172: a command carried out, with its response built after its every effect. -/
def State.carryOut (f : CommandFrame) (s : State) : State :=
  let a := s.answer f.body
  a.state.respond ⟨f.seq, echoedCode f.body :: a.status.code :: a.data⟩

/-- R163: a command with the sequence of the last executed one is answered from the cache. -/
def State.takeFrame (f : CommandFrame) (s : State) : State :=
  match s.host.cache with
  | none => s.carryOut f
  | some cached =>
    if cached.seq = f.seq then s.withUnit fun u => { u with responseSlot := some cached } else s.carryOut f

/-- R162: the take, at the first event at which the ready slot is full and the response slot empty. -/
def State.takeReady (s : State) : State :=
  match s.host.readySlot, s.unit.responseSlot with
  | some f, none => (s.withHost fun h => { h with readySlot := none }).takeFrame f
  | some _, some _ => s
  | none, _ => s

/-- R160: a COMMAND frame is placed in the ready slot, or meets an overrun. -/
def State.placeReady (f : CommandFrame) (s : State) : State :=
  match s.host.readySlot with
  | none => s.withHost fun h => { h with readySlot := some f }
  | some _ => s.withHostCounters fun c => { c with overruns := satInc c.overruns }

/-- R158, R160, R162, R180: a COMMAND frame with a good CRC: the ready slot or an overrun, then the notice, which an
overrun gives too, and then the take, if the Command Unit is free. -/
def State.offer (f : CommandFrame) (s : State) : State := (s.placeReady f).goodFrame.takeReady

end Sys2Proof.Machine
end

