-- ==== Sys2Proof/Machine/HostCommands.lean ====
section
/-!
DEFINITION. The rows of the command family: the twenty host commands and the two other takes. Each is a whole COMMAND
frame with a good CRC (log 4): it is placed in the ready slot or meets an overrun (R160), gives the good-CRC notice
(R158), and is taken as soon as the Command Unit is free (R162). What it does is what COMMAND_FRAME does with it.
-/

namespace Sys2Proof.Machine

abbrev StepOutcome := Host.Outcome State Fault Refusal

/-- A whole COMMAND frame received; while HRX is held low none is (R153, R169). -/
def State.receiveCommand (f : CommandFrame) (s : State) : State := if s.host.listening then s.offer f else s

/-- A COMMAND frame of the named command. -/
def hostCommand (name : CommandName) (seq : Byte) (params : List Byte) (s : State) : State :=
  whenRunning (State.receiveCommand ⟨seq, name.code :: params⟩) s

/-- IDENTIFY (R177). -/
def execIdentify (seq : Byte) (params : List Byte) (s : State) : StepOutcome :=
  .next (hostCommand .identify seq params s)

/-- STATUS (R178, R179). -/
def execStatus (seq : Byte) (params : List Byte) (s : State) : StepOutcome :=
  .next (hostCommand .status seq params s)

/-- RESTART (R182). -/
def execRestart (seq : Byte) (params : List Byte) (s : State) : StepOutcome :=
  .next (hostCommand .restart seq params s)

/-- LINK_SETUP (R167). -/
def execLinkSetup (seq : Byte) (params : List Byte) (s : State) : StepOutcome :=
  .next (hostCommand .linkSetup seq params s)

/-- FALLBACK_SET (R188). -/
def execFallbackSet (seq : Byte) (params : List Byte) (s : State) : StepOutcome :=
  .next (hostCommand .fallbackSet seq params s)

/-- LINE_SETUP (R116). -/
def execLineSetup (seq : Byte) (params : List Byte) (s : State) : StepOutcome :=
  .next (hostCommand .lineSetup seq params s)

/-- LINE_START (R117). -/
def execLineStart (seq : Byte) (params : List Byte) (s : State) : StepOutcome :=
  .next (hostCommand .lineStart seq params s)

/-- LINE_STOP (R118, R119). -/
def execLineStop (seq : Byte) (params : List Byte) (s : State) : StepOutcome :=
  .next (hostCommand .lineStop seq params s)

/-- LINE_RESUME (R121). -/
def execLineResume (seq : Byte) (params : List Byte) (s : State) : StepOutcome :=
  .next (hostCommand .lineResume seq params s)

/-- ENROL (R4, R5). -/
def execEnrol (seq : Byte) (params : List Byte) (s : State) : StepOutcome :=
  .next (hostCommand .enrol seq params s)

/-- MODIFY (R6 to R11). -/
def execModify (seq : Byte) (params : List Byte) (s : State) : StepOutcome :=
  .next (hostCommand .modify seq params s)

/-- PARK (R12). -/
def execPark (seq : Byte) (params : List Byte) (s : State) : StepOutcome :=
  .next (hostCommand .park seq params s)

/-- RELEASE (R13). -/
def execRelease (seq : Byte) (params : List Byte) (s : State) : StepOutcome :=
  .next (hostCommand .release seq params s)

/-- STATION_QUERY (R15). -/
def execStationQuery (seq : Byte) (params : List Byte) (s : State) : StepOutcome :=
  .next (hostCommand .stationQuery seq params s)

/-- ROSTER (R16). -/
def execRoster (seq : Byte) (params : List Byte) (s : State) : StepOutcome :=
  .next (hostCommand .roster seq params s)

/-- PUT (R32, R35). -/
def execPut (seq : Byte) (params : List Byte) (s : State) : StepOutcome :=
  .next (hostCommand .put seq params s)

/-- GET (R33, R35). -/
def execGet (seq : Byte) (params : List Byte) (s : State) : StepOutcome :=
  .next (hostCommand .get seq params s)

/-- BROADCAST (R34, R35). -/
def execBroadcast (seq : Byte) (params : List Byte) (s : State) : StepOutcome :=
  .next (hostCommand .broadcast seq params s)

/-- CANCEL (R46). -/
def execCancel (seq : Byte) (params : List Byte) (s : State) : StepOutcome :=
  .next (hostCommand .cancel seq params s)

/-- QUEUE_QUERY (R52). -/
def execQueueQuery (seq : Byte) (params : List Byte) (s : State) : StepOutcome :=
  .next (hostCommand .queueQuery seq params s)

/-- R163: the sequence of a frame equals that of the command last executed. -/
def HostLink.isCached (seq : Byte) (h : HostLink) : Bool :=
  match h.cache with
  | none => false
  | some r => r.seq == seq

/-- CACHED_RESPONSE (R163): a COMMAND frame, whatever its body, with the sequence of the last executed command. -/
def execCachedResponse (seq : Byte) (body : List Byte) (s : State) : StepOutcome :=
  .next (whenRunning (fun s => if s.host.isCached seq then s.receiveCommand ⟨seq, body⟩ else s) s)

/-- R173, checks 1 and 2: the body carries no command code, or one that names no command. -/
def namesNoCommand (body : List Byte) : Bool :=
  match body with
  | [] => true
  | code :: _ => (CommandName.ofCode? code).isNone

/-- COMMAND_CODE_UNKNOWN (R173): a COMMAND frame with an empty body or an unknown command code. -/
def execCommandCodeUnknown (seq : Byte) (body : List Byte) (s : State) : StepOutcome :=
  .next (whenRunning (fun s => if namesNoCommand body then s.receiveCommand ⟨seq, body⟩ else s) s)

end Sys2Proof.Machine
end

