-- ==== Sys2Proof/Machine/HostLinkEvents.lean ====
section
/-!
DEFINITION. The rows of the host link (chapter 8) and of report transmission (chapter 7): bytes and frames on
HRX, acknowledgements, breaks, frames on HTX and the ack timer.
A row that names an event the state does not allow is no event and changes nothing (log 2).
-/

namespace Sys2Proof.Machine

/-! ### The receiver (R156 to R160) -/

/-- Is the next byte of the frame its CRC low byte? `bytes` are those after the lead byte: the length L, then
L bytes of kind, sequence and body, then CRC high (R154). -/
def crcLowNext (bytes : List Byte) : Bool :=
  match bytes with
  | [] => false
  | l :: _ => bytes.length == l.toNat + 2

/-- R157: a length byte below 2 or above 200. -/
def lengthIsBad (b : Byte) : Bool := decide (b.toNat < 2) || decide (200 < b.toNat)

/-- A complete frame as received, with the result of its CRC check (R158). -/
structure ReceivedFrame where
  kind : Byte
  seq : Byte
  body : List Byte
  crcGood : Bool
  deriving DecidableEq, Repr

/-- R157, R158: the frame that the byte `b` completes as its CRC low byte. -/
def HostLink.completedBy? (b : Byte) (h : HostLink) : Option ReceivedFrame :=
  match h.receiver with
  | .hunting => none
  | .assembling bytes _ =>
    if h.listening && crcLowNext bytes then
      some ⟨bytes.getD 1 0#8, bytes.getD 2 0#8, (bytes.drop 3).dropLast, crc16 (bytes ++ [b]) == 0#16⟩
    else none

/-- The data bits at 0 that stand last in a byte as it is sent, least significant bit first (R153). -/
def lastLowBits (data : Byte) : Nat := (List.range 8).countP fun i => data.toNat < 2 ^ i

/-- How long HRX has been low at the middle of a stop bit sampled low, in half bit times: half the stop bit, the data
bits at 0 right before it and, where all eight are, the start bit (log 26). -/
def lowHalfBits (data : Byte) : Nat := 1 + 2 * lastLowBits data + (if data = 0#8 then 2 else 0)

/-- R153, R169: HRX after a byte; with a framing error it may stay low, and is measured from its falling edge. -/
def HrxLevel.after (rate : HostRate) (ch : RxChar) : HrxLevel :=
  match ch.stop with
  | .idle => .high
  | .errorReturned => .high
  | .errorHeld => .low (lowHalfBits ch.data * Config.clkHz / (2 * rate.bps)) false

/-- LEAD_BYTE (R156): A7h in HUNTING. The end of the byte is this event, the middle of its stop bit (log 25). -/
def execLeadByte (s : State) : StepOutcome :=
  .next (whenRunning (fun s =>
    match s.host.receiver with
    | .hunting =>
      if s.host.listening then s.withHost fun h => { h with receiver := .assembling [] s.clock } else s
    | .assembling _ _ => s) s)

/-- STRAY_BYTE (R156): a byte in HUNTING that is no lead byte. -/
def execStrayByte (ch : RxChar) (s : State) : StepOutcome :=
  .next (whenRunning (fun s =>
    match s.host.receiver with
    | .hunting =>
      if s.host.listening && !(ch.stop == .idle && ch.data == Config.leadByte) then
        (s.withHostCounters fun c => { c with strayBytes := satInc c.strayBytes }).withHost
          fun h => { h with hrx := .after h.rate ch }
      else s
    | .assembling _ _ => s) s)

/-- FRAME_BYTE (R157): a byte before the CRC low byte fills the next position; the pause is counted from this event
(log 25). -/
def execFrameByte (b : Byte) (s : State) : StepOutcome :=
  .next (whenRunning (fun s =>
    match s.host.receiver with
    | .hunting => s
    | .assembling bytes _ =>
      if s.host.listening && !crcLowNext bytes && !(bytes.isEmpty && lengthIsBad b) then
        s.withHost fun h => { h with receiver := .assembling (bytes ++ [b]) s.clock }
      else s) s)

/-- BAD_LENGTH (R157): the frame is discarded at its length byte, received without fault (log 27). -/
def execBadLength (b : Byte) (s : State) : StepOutcome :=
  .next (whenRunning (fun s =>
    match s.host.receiver with
    | .hunting => s
    | .assembling bytes _ =>
      if s.host.listening && bytes.isEmpty && lengthIsBad b then
        (s.withHostCounters fun c => { c with badLengths := satInc c.badLengths }).toHunting
      else s) s)

/-- BROKEN_FRAME (R157): a byte with a framing error after the lead byte, a length byte of any value among them
(log 27). -/
def execBrokenFrame (ch : RxChar) (s : State) : StepOutcome :=
  .next (whenRunning (fun s =>
    match s.host.receiver with
    | .hunting => s
    | .assembling _ _ =>
      if s.host.listening && ch.stop != .idle then
        ((s.withHostCounters fun c => { c with brokenFrames := satInc c.brokenFrames }).toHunting).withHost
          fun h => { h with hrx := .after h.rate ch }
      else s) s)

/-- FRAME_PAUSE_TIMEOUT (R157): the pause inside the frame exceeds 20 ms by the millisecond clock (R181; log 20). -/
def execFramePauseTimeout (s : State) : StepOutcome :=
  .next (whenRunning (fun s =>
    match s.host.receiver with
    | .hunting => s
    | .assembling _ lastEnded =>
      if Config.framePauseMs < msSince s.clock lastEnded then
        (s.withHostCounters fun c => { c with brokenFrames := satInc c.brokenFrames }).toHunting
      else s) s)

/-- CRC_ERROR (R158): a complete frame with a wrong CRC. -/
def execCrcError (b : Byte) (s : State) : StepOutcome :=
  .next (whenRunning (fun s =>
    match s.host.completedBy? b with
    | none => s
    | some f =>
      if f.crcGood then s
      else (s.withHostCounters fun c => { c with crcErrors := satInc c.crcErrors }).toHunting) s)

/-- COMMAND_FRAME (R158 to R160, R162, R180): the ready slot or an overrun, then the notice, then the take. -/
def execCommandFrame (b : Byte) (s : State) : StepOutcome :=
  .next (whenRunning (fun s =>
    match s.host.completedBy? b with
    | none => s
    | some f =>
      if f.crcGood && f.kind == kindCommand then
        s.offer ⟨f.seq, f.body⟩
      else s) s)

/-! ### Acknowledgements (R145, R146) -/

/-- R145: the entries an ACK of sequence number `q` removes (that entry and every older SENT one), and the
rest; `none` where no SENT entry holds `q`. -/
def splitAck (q : Byte) : List ReportEntry → Option (List ReportEntry × List ReportEntry)
  | [] => none
  | e :: rest =>
    match e.status with
    | .unsent => none
    | .sent q' =>
      if q' = q then some ([e], rest) else (splitAck q rest).map fun p => (e :: p.1, p.2)

/-- R132: the tag of a RESULT report. -/
def ReportEntry.resultTag? (e : ReportEntry) : Option Half :=
  match e.report with
  | .result tag _ _ _ _ _ => some tag
  | .ready _ _ => none
  | .image _ _ _ _ => none
  | .station _ _ _ _ _ _ => none
  | .line _ _ _ _ _ => none

/-- R145: the Report Unit after an acknowledgement has removed entries. -/
def ReportUnit.acked (now : Clock) (removed rest : List ReportEntry) (u : ReportUnit) : ReportUnit :=
  { u.setQueue rest with
    roundCount := 0
    ackTimer := if (oldestSent rest).isSome then some ⟨now, u.ackTimeout⟩ else none
    resendPoint :=
      match u.resendPoint with
      | none => none
      | some q => if removed.any (ReportEntry.sentAs q) then oldestSent rest else some q }

/-- R145, R146, R51: an ACK at the Report Unit; one that matches no SENT entry is only counted. -/
def State.applyAck (q : Byte) (s : State) : State :=
  match splitAck q s.reports.queue with
  | none => s.withReports fun u => { u with unknownAcks := satInc u.unknownAcks }
  | some (removed, rest) =>
    (s.withReports (ReportUnit.acked s.clock removed rest)).releaseTags
      (removed.filterMap ReportEntry.resultTag?)

/-- ACK_FRAME (R159, R145): the acknowledgement, then the notice; the body is disregarded (R155). -/
def execAckFrame (b : Byte) (s : State) : StepOutcome :=
  .next (whenRunning (fun s =>
    match s.host.completedBy? b with
    | none => s
    | some f => if f.crcGood && f.kind == kindAck then (s.applyAck f.seq).goodFrame else s) s)

/-- UNKNOWN_KIND_FRAME (R159): counted once as stray, with the notice. -/
def execUnknownKindFrame (b : Byte) (s : State) : StepOutcome :=
  .next (whenRunning (fun s =>
    match s.host.completedBy? b with
    | none => s
    | some f =>
      if f.crcGood && f.kind != kindCommand && f.kind != kindAck then
        (s.withHostCounters fun c => { c with strayBytes := satInc c.strayBytes }).goodFrame
      else s) s)

/-! ### Responses delivered, the rate switch and the break (R166, R168, R170, R182) -/

/-- R168: the rate switch at the end of a LINK_SETUP response. -/
def HostLink.switchRate (h : HostLink) : HostLink :=
  match h.pendingRate with
  | none => h
  | some r =>
    if r = h.rate then { h with pendingRate := none }
    else { h with rate := r, pendingRate := none, receiver := .hunting }

/-- R162, R182: the response slot empties; a RESTART's full reset follows, else the next take. -/
def State.responseGone (s : State) : State :=
  if s.unit.pendingRestart then s.fullReset .restart
  else (s.withUnit fun u => { u with responseSlot := none }).takeReady

/-- R166: the frame has been on HTX for the time its bytes take. -/
def TxFrame.ended (t : TxFrame) : Bool := charTimesRun t.elapsed t.rate.bps t.bytes.length

/-- RESPONSE_DELIVERED (R166, R168, R182). -/
def execResponseDelivered (s : State) : StepOutcome :=
  .next (whenRunning (fun s =>
    match s.host.tx with
    | none => s
    | some t =>
      if t.source = .response ∧ t.ended then
        (s.withHost fun h => HostLink.switchRate { h with tx := none }).responseGone
      else s) s)

/-- A response is being transmitted. -/
def HostLink.sendingResponse (h : HostLink) : Bool :=
  match h.tx with
  | none => false
  | some t => t.source == .response

/-- R169: the low is declared a break; it goes on. -/
def HrxLevel.declare : HrxLevel → HrxLevel
  | .high => .high
  | .low elapsed _ => .low elapsed true

/-- R169: HRX has been low for 1 ms since its falling edge (log 26), and this low has not been declared a break. -/
def HrxLevel.breakDue : HrxLevel → Bool
  | .high => false
  | .low elapsed declared => !declared && decide (Config.cyclesPerMs ≤ elapsed)

/-- R170: the Host Link at a break. A LINK_SETUP response still waiting keeps its pending rate. -/
def HostLink.break (h : HostLink) : HostLink :=
  { h with
    rate := .r115200
    pendingRate := if h.sendingResponse then none else h.pendingRate
    receiver := .hunting
    hrx := h.hrx.declare
    tx := none
    counters := { h.counters with breaks := satInc h.counters.breaks } }

/-- BREAK (R169, R170): once HRX has been low for 1 ms, one for each continuous low; a response it stops counts as
delivered, without a rate switch. Held in reset HRX is not watched (R186): the row then says no more than that HRX
is low, which the end of the reset will find (log 14). -/
def execLineBreak (s : State) : StepOutcome :=
  .next (
    if s.held then s.withHost fun h => { h with hrx := .low 0 false }
    else if s.host.hrx.breakDue then
      let s' := s.withHost HostLink.break
      if s.host.sendingResponse then s'.responseGone else s'
    else s)

/-- HRX_IDLE_RETURN (R169): HRX is high, in reset as outside it (log 14). -/
def execHrxIdleReturn (s : State) : StepOutcome := .next (s.withHost fun h => { h with hrx := .high })

/-! ### The transmitter and the report window (R143, R144, R147, R148, R165) -/

/-- RESPONSE_FRAME_BEGIN (R165, R166): the waiting response goes first. -/
def execResponseFrameBegin (s : State) : StepOutcome :=
  .next (whenRunning (fun s =>
    match s.host.tx, s.unit.responseSlot with
    | none, some r => s.withHost fun h =>
        { h with tx := some ⟨.response, hostFrame kindResponse r.seq r.body, h.rate, 0⟩ }
    | none, none => s
    | some _, _ => s) s)

/-- R143: the oldest UNSENT entry becomes SENT with the number given; its report, and the queue. -/
def sendOldest (q : Byte) : List ReportEntry → Option (Report × List ReportEntry)
  | [] => none
  | e :: rest =>
    match e.status with
    | .unsent => some (e.report, ⟨e.report, .sent q⟩ :: rest)
    | .sent _ => (sendOldest q rest).map fun p => (p.1, e :: p.2)

/-- R143: the SENT entry behind the one with sequence number `q`. -/
def nextSent (q : Byte) : List ReportEntry → Option Byte
  | [] => none
  | e :: rest => if e.sentAs q then oldestSent rest else nextSent q rest

/-- R143: the SENT entry with sequence number `q`. -/
def ReportUnit.sentEntry? (q : Byte) (u : ReportUnit) : Option ReportEntry :=
  u.queue.find? (ReportEntry.sentAs q)

/-- R143: the report the Report Unit offers, as sequence number, body and the Report Unit once its frame has
begun. -/
def ReportUnit.beginFrame (now : Clock) (u : ReportUnit) : Option (Byte × List Byte × ReportUnit) :=
  match u.link with
  | .stalled => none
  | .flowing =>
    match u.resendPoint with
    | some q =>
      (u.sentEntry? q).map fun e =>
        (q, e.report.body,
          { u with retransmissions := satInc u.retransmissions, resendPoint := nextSent q u.queue })
    | none =>
      if u.sentEntries.length < Config.sentWindow then
        (sendOldest u.nextSeq u.queue).map fun p =>
          (u.nextSeq, p.1.body,
            { u.setQueue p.2 with
              nextSeq := u.nextSeq + 1
              ackTimer := if u.sentEntries.isEmpty then some ⟨now, u.ackTimeout⟩ else u.ackTimer })
      else none

/-- REPORT_FRAME_BEGIN (R143, R144, R165): taken when the transmitter is idle and no response waits. -/
def execReportFrameBegin (s : State) : StepOutcome :=
  .next (whenRunning (fun s =>
    match s.host.tx, s.unit.responseSlot, s.reports.beginFrame s.clock with
    | none, none, some (q, body, u) =>
      ({ s with reports := u } : State).withHost fun h =>
        { h with tx := some ⟨.report, hostFrame kindReport q body, h.rate, 0⟩ }
    | _, _, _ => s) s)

/-- REPORT_FRAME_END (R165): a frame boundary. -/
def execReportFrameEnd (s : State) : StepOutcome :=
  .next (whenRunning (fun s =>
    match s.host.tx with
    | none => s
    | some t =>
      if t.source = .report ∧ t.ended then s.withHost fun h => { h with tx := none } else s) s)

/-- R148: the expiry of the ack timer: a retransmission round, or STALLED at round 8. -/
def ReportUnit.ackExpired (now : Clock) (u : ReportUnit) : ReportUnit :=
  if u.roundCount + 1 < Config.stallRound then
    { u with
      roundCount := u.roundCount + 1
      resendPoint := oldestSent u.queue
      ackTimer := some ⟨now, u.ackTimeout⟩ }
  else
    { u with roundCount := Config.stallRound, link := .stalled, resendPoint := none, ackTimer := none }

/-- ACK_TIMER_EXPIRY (R147, R148). -/
def execAckTimerExpiry (s : State) : StepOutcome :=
  .next (whenRunning (fun s =>
    match s.reports.ackTimer with
    | none => s
    | some t =>
      if t.timeout ≤ msSince s.clock t.start then s.withReports (ReportUnit.ackExpired s.clock) else s) s)

end Sys2Proof.Machine
end

