-- ==== Sys2Proof/Machine/LineEvents.lean ====
section
/-!
DEFINITION. The rows of the field line: the call and its echo (R92 to R98), the reply timeout (R99), the
telegram framer (R81 to R84) with what a telegram means for the exchange and the role (R93, R100 to R105, R123),
quiet (R75, R122), and the rows of the timetable, the deadlines and the silence timer.
A row that names an event the state does not allow is no event and changes nothing (log 2).
-/

namespace Sys2Proof.Machine

/-! ### The timetable and the deadlines -/

/-- DEADLINE_EXPIRY (R45): a WAITING request completes with EXPIRED; the next head can be selected. -/
def execDeadlineExpiry (tag : Half) (s : State) : StepOutcome :=
  .next (whenRunning (fun s =>
    match s.findRequest tag with
    | none => s
    | some r =>
      if r.state = .waiting ∧ r.deadlinePassed s.clock then
        let removed := s.completeRequest tag .expired []
        removed.selectIf (removed.hasEligible r.station)
      else s) s)

/-- DUE_TIME_REACHED (R56, R64): the due time becomes reached, and its call a candidate. -/
def execDueTimeReached (a : Addr) (s : State) : StepOutcome :=
  .next (whenRunning (fun s =>
    match (s.station a).nextDue with
    | none => s
    | some d =>
      if !d.reached && d.arrived s.clock then
        (s.withStation a fun e => { e with nextDue := some { d with reached := true } }).select
      else s) s)

/-- R56: set the saturated mark of an anchor whose lateness is full. -/
def Origin.saturate (now : Clock) (o : Origin) : Origin :=
  match o with
  | .poll d => if d.latenessFull now then .poll d.saturate else o
  | .recoveryPoll d => if d.latenessFull now then .recoveryPoll d.saturate else o
  | .probe d => if d.latenessFull now then .probe d.saturate else o
  | .request _ => o
  | .fallback => o

/-- LATENESS_SATURATED (R56): of a due time in an entry, or of the anchor of the exchange in progress. -/
def execLatenessSaturated (which : DueRef) (s : State) : StepOutcome :=
  .next (whenRunning (fun s =>
    match which with
    | .entry a =>
      match (s.station a).nextDue with
      | none => s
      | some d =>
        if d.latenessFull s.clock then s.withStation a fun e => { e with nextDue := some d.saturate } else s
    | .anchor =>
      s.withEngine fun e =>
        { e with exchange := e.exchange.map fun x =>
            { x with record := { x.record with origin := x.record.origin.saturate s.clock } } }) s)

/-- SILENCE_TIMER_EXPIRY (R190): fallback becomes pending; with the Line Engine IDLE it moves on at once. -/
def execSilenceTimerExpiry (s : State) : StepOutcome :=
  .next (whenRunning (fun s =>
    match s.fallback.timer with
    | none => s
    | some start =>
      if s.engine.role = .master ∧ s.fallback.limit ≤ msSince s.clock start then
        let pending := s.withFallback fun f => { f with timer := none, pending := true }
        if s.engine.exchange.isSome then pending.withFallback fun f => { f with phase := .awaitingExchange }
        else pending.advanceFallback
      else s) s)

/-! ### Sending the call -/

/-- SEND_START (R92, R94): LDE is asserted and SENDING begins. -/
def execSendStart (s : State) : StepOutcome :=
  .next (whenRunning (fun s => s.withEngine LineEngine.tryStart) s)

/-- Change the phase of the exchange in progress. -/
def State.setPhase (phase : Phase) (s : State) : State :=
  s.withEngine fun e => { e with exchange := e.exchange.map fun x => { x with phase := phase } }

/-- CALL_CHARACTER_SENT (R95): the characters go back to back, so the n-th ends n character times after LDE was
asserted. -/
def execCallCharacterSent (s : State) : StepOutcome :=
  .next (whenRunning (fun s =>
    match s.engine.exchange with
    | some ⟨record, .sending elapsed ended paired⟩ =>
      if ended < record.call.length ∧ charTimesRun elapsed s.engine.params.rate.bps (ended + 1) then
        s.setPhase (.sending elapsed (ended + 1) paired)
      else s
    | _ => s) s)

/-- R96: an echo received more than 2 character times after its character ended on LTX; the n-th character of the
call ends n character times after LDE was asserted (R95). -/
def echoLate (elapsed : Nat) (rate : LineRate) (paired : Nat) : Bool :=
  charTimesExceeded elapsed rate.bps (paired + 1 + Config.echoLimitChars)

/-- R96: the character is the echo of the next unpaired character, received in good form and in time. The character
on LTX counts as sent (DEDUCED, log 6). -/
def echoGood (rate : LineRate) (call : List Byte) (elapsed ended paired : Nat) (ch : RxChar) : Bool :=
  ch.stop == .idle && decide (paired < min call.length (ended + 1)) && call[paired]? == some ch.data &&
    !echoLate elapsed rate paired

/-- R98: the call has been sent: LDE is released, the framer is READY, the call is counted, and the exchange
awaits its reply, or settles after a BCAST. -/
def State.callSent (kind : CallKind) (s : State) : State :=
  (s.withEngine fun e =>
    { e with lde := false, framer := .ready, counters := { e.counters with callsSent := satInc e.counters.callsSent } }
    ).setPhase (if kind = .bcast then .settle else .await s.clock false)

/-- ECHO_RECEIVED (R96 to R98). -/
def execEchoReceived (ch : RxChar) (s : State) : StepOutcome :=
  .next (whenRunning (fun s =>
    match s.engine.exchange with
    | some ⟨record, .sending elapsed ended paired⟩ =>
      if s.engine.lrxHeld then s
      else
        let heard := s.hear ch.stop
        if echoGood s.engine.params.rate record.call elapsed ended paired ch then
          (if paired + 1 = record.call.length then heard.callSent record.kind
           else heard.setPhase (.sending elapsed ended (paired + 1)))
        else heard.collide .echo
    | _ => s) s)

/-- ECHO_TIMEOUT (R96, R97): 2 character times after the end of a character sent, with no echo of it. -/
def execEchoTimeout (s : State) : StepOutcome :=
  .next (whenRunning (fun s =>
    match s.engine.exchange with
    | some ⟨_, .sending elapsed ended paired⟩ =>
      if paired < ended ∧ charTimesRun elapsed s.engine.params.rate.bps (paired + 1 + Config.echoLimitChars) then
        s.collide .echo
      else s
    | _ => s) s)

/-- REPLY_TIMEOUT (R99): no start bit confirmed since the release of LDE. -/
def execReplyTimeout (s : State) : StepOutcome :=
  .next (whenRunning (fun s =>
    match s.engine.exchange with
    | some ⟨_, .await since startSeen⟩ =>
      if !startSeen && decide (s.engine.params.replyTimeout ≤ msSince s.clock since) then
        s.completeExchange .noReply []
      else s
    | _ => s) s)

/-! ### The telegram framer -/

/-- R74, R82: characters are framed while LDE is released and LRX is not held away from idle. -/
def LineEngine.framing (e : LineEngine) : Bool := !e.lde && !e.lrxHeld

def State.setFramer (f : Framer) (s : State) : State := s.withEngine fun e => { e with framer := f }

/-- R82: a good character is a CALL header by its direction bit alone (R77, R200). -/
def isCallHeader (ch : RxChar) : Bool := ch.stop == .idle && !headerIsReply ch.data

/-- R82, R123: what the start of a telegram means to the Line Engine. -/
def State.judgeStart (ch : RxChar) (s : State) : State :=
  match s.engine.exchange with
  | none => if isCallHeader ch && s.engine.role == .master then s.idleContention else s
  | some x =>
    match x.phase with
    | .gap => if isCallHeader ch then s.collide .foreignCall else s
    | .sending _ _ _ => s
    | .await _ _ =>
      if ch.stop ≠ .idle then s.completeExchange (.garbled .framing) []
      else if headerIsReply ch.data then s.setPhase .receiving
      else s.collide .foreignCall
    | .receiving => s
    | .settle => s.collide .foreignCall

/-- TELEGRAM_START (R82): the framer is COLLECTING, or SKIPPING after a framing error. -/
def execTelegramStart (ch : RxChar) (s : State) : StepOutcome :=
  .next (whenRunning (fun s =>
    if s.engine.framing && s.engine.framer == .ready then
      ((s.hear ch.stop).setFramer (if ch.stop = .idle then .collecting [ch.data] else .skipping)).judgeStart ch
    else s) s)

/-- R83: the next character is the CRC low one: header, address, length, payload and CRC high are there. -/
def telegramCrcLowNext (chars : List Byte) : Bool :=
  match chars with
  | _ :: _ :: l :: _ => chars.length == l.toNat + 4
  | [_, _] => false
  | [_] => false
  | [] => false

/-- R79, R83: the next character is the length, and 33 or more. -/
def telegramLengthBad (chars : List Byte) (b : Byte) : Bool := chars.length == 2 && decide (33 ≤ b.toNat)

/-- TELEGRAM_CHARACTER (R83): fills the next position before CRC low. -/
def execTelegramCharacter (b : Byte) (s : State) : StepOutcome :=
  .next (whenRunning (fun s =>
    match s.engine.framer with
    | .collecting chars =>
      if s.engine.framing && !telegramCrcLowNext chars && !telegramLengthBad chars b then
        (s.hear .idle).setFramer (.collecting (chars ++ [b]))
      else s
    | .skipping => s
    | .ready => s) s)

/-- R101: a fault of the framer ends the exchange that is RECEIVING. -/
def State.replyFault (detail : GarbledDetail) (s : State) : State :=
  match s.engine.exchange with
  | some ⟨_, .receiving⟩ => s.completeExchange (.garbled detail) []
  | _ => s

/-- TELEGRAM_FAULT (R83): a framing error, or a length of 33 or more. -/
def execTelegramFault (ch : RxChar) (s : State) : StepOutcome :=
  .next (whenRunning (fun s =>
    match s.engine.framer with
    | .collecting chars =>
      if s.engine.framing && (ch.stop != .idle || telegramLengthBad chars ch.data) then
        ((s.hear ch.stop).setFramer .skipping).replyFault (if ch.stop ≠ .idle then .framing else .badLength)
      else s
    | .skipping => s
    | .ready => s) s)

/-- TELEGRAM_PAUSE_TIMEOUT (R83): fault BROKEN; where the pause has already reached the gap the framer is READY
again at the same moment (R81). -/
def execTelegramPauseTimeout (s : State) : StepOutcome :=
  .next (whenRunning (fun s =>
    match s.engine.framer with
    | .collecting _ =>
      if s.engine.framing && s.engine.pauseExceeded then
        (s.setFramer (if s.engine.gapReached then .ready else .skipping)).replyFault .broken
      else s
    | .skipping => s
    | .ready => s) s)

/-- R101, R102: a complete reply is classified. -/
def State.replyComplete (chars : List Byte) (s : State) : State :=
  match s.engine.exchange with
  | some ⟨record, .receiving⟩ =>
    let outcome := record.classify chars
    s.completeExchange outcome (if outcome = .good then telegramPayload chars else [])
  | _ => s

/-- TELEGRAM_COMPLETE (R83): the CRC low character. -/
def execTelegramComplete (b : Byte) (s : State) : StepOutcome :=
  .next (whenRunning (fun s =>
    match s.engine.framer with
    | .collecting chars =>
      if s.engine.framing && telegramCrcLowNext chars then
        ((s.hear .idle).setFramer .skipping).replyComplete (chars ++ [b])
      else s
    | .skipping => s
    | .ready => s) s)

/-- TRAILING_CHARACTER (R81): in SKIPPING, line activity only. -/
def execTrailingCharacter (ch : RxChar) (s : State) : StepOutcome :=
  .next (whenRunning (fun s =>
    if s.engine.framing && s.engine.framer == .skipping then s.hear ch.stop else s) s)

/-- FRAMER_GAP_REACHED (R81). -/
def execFramerGapReached (s : State) : StepOutcome :=
  .next (whenRunning (fun s =>
    if s.engine.framing && s.engine.framer == .skipping && s.engine.gapReached then s.setFramer .ready
    else s) s)

/-- BROADCAST_SETTLED (R105). -/
def execBroadcastSettled (s : State) : StepOutcome :=
  .next (whenRunning (fun s =>
    match s.engine.exchange with
    | some ⟨_, .settle⟩ => if s.engine.gapReached then s.completeExchange .sent [] else s
    | _ => s) s)

/-! ### Quiet and start bits -/

/-- LRX_IDLE_RETURN (R74, R122): the measure of quiet restarts. -/
def execLrxIdleReturn (s : State) : StepOutcome :=
  .next (whenRunning (fun s =>
    if s.engine.lrxHeld then
      s.withEngine fun e =>
        { e with lrxHeld := false, quiet := 0, quietSince := s.clock, quietSaturated := false }
    else s) s)

/-- R99: a start bit confirmed in AWAIT disarms the reply timeout. -/
def Phase.startBit : Phase → Phase
  | .await since _ => .await since true
  | .gap => .gap
  | .sending elapsed ended paired => .sending elapsed ended paired
  | .receiving => .receiving
  | .settle => .settle

/-- START_BIT_CONFIRMED (R74, R92, R99, R105): the line is no longer quiet. -/
def execStartBitConfirmed (s : State) : StepOutcome :=
  .next (whenRunning (fun s =>
    if s.engine.isQuiet then
      s.withEngine fun e =>
        { e with
          charInProgress := true
          exchange := e.exchange.map fun x => { x with phase := x.phase.startBit } }
    else s) s)

/-- LINE_QUIET_SATURATED (R122). -/
def execLineQuietSaturated (s : State) : StepOutcome :=
  .next (whenRunning (fun s =>
    if s.engine.isQuiet && decide (Config.quietCapMs ≤ msSince s.clock s.engine.quietSince) then
      s.withEngine fun e => { e with quietSaturated := true }
    else s) s)

end Sys2Proof.Machine
end

