-- ==== Sys2Proof/Machine/ResetEvents.lean ====
section
/-!
DEFINITION. The rows of the reset pins and the supply (R183, R184): what holds the device in reset and what
ends a full reset.
-/

namespace Sys2Proof.Machine

/-- NRST_ASSERT (R183, R186): all work is abandoned and the device is held. -/
def execNrstAssert (s : State) : StepOutcome :=
  .next (if s.power.nrstLow then s else { s.abandon with power := { s.power with nrstLow := true } })

/-- NRST_RELEASE (R183, R184): the full reset is completed with cause PIN, or POWER where the supply has been
out of range; with the supply still out of range the device stays held. -/
def execNrstRelease (s : State) : StepOutcome :=
  .next (
    if s.power.nrstLow then
      if s.power.supplyInRange then s.fullReset (if s.power.supplyLost then .power else .pin)
      else { s with power := { s.power with nrstLow := false } }
    else s)

/-- POWER_UP (R184): the supply comes into range; with NRST low the device stays held until it goes high. -/
def execPowerUp (s : State) : StepOutcome :=
  .next (
    if s.power.supplyInRange then s
    else if s.power.nrstLow then { s with power := { s.power with supplyInRange := true } }
    else s.fullReset .power)

/-- SUPPLY_FAIL (R184, R186): the device is held as at power-up. -/
def execSupplyFail (s : State) : StepOutcome :=
  .next (
    if s.power.supplyInRange then
      { s.abandon with power := { s.power with supplyInRange := false, supplyLost := true } }
    else s)

end Sys2Proof.Machine
end

