-- ==== Sys2Proof/Machine/Dispatch.lean ====
section
/-!
DEFINITION. One arm for each row of spec/opcode_table.json.
-/

namespace Sys2Proof.Machine

/-- The effect of one command on everything but the queue of commands. -/
def exec (i : Instr) (s : State) : Host.Outcome State Fault Refusal :=
  match i with
  -- host commands
  | .identify seq params => Sys2Proof.Machine.execIdentify seq params s
  | .status seq params => Sys2Proof.Machine.execStatus seq params s
  | .restart seq params => Sys2Proof.Machine.execRestart seq params s
  | .linkSetup seq params => Sys2Proof.Machine.execLinkSetup seq params s
  | .fallbackSet seq params => Sys2Proof.Machine.execFallbackSet seq params s
  | .lineSetup seq params => Sys2Proof.Machine.execLineSetup seq params s
  | .lineStart seq params => Sys2Proof.Machine.execLineStart seq params s
  | .lineStop seq params => Sys2Proof.Machine.execLineStop seq params s
  | .lineResume seq params => Sys2Proof.Machine.execLineResume seq params s
  | .enrol seq params => Sys2Proof.Machine.execEnrol seq params s
  | .modify seq params => Sys2Proof.Machine.execModify seq params s
  | .park seq params => Sys2Proof.Machine.execPark seq params s
  | .release seq params => Sys2Proof.Machine.execRelease seq params s
  | .stationQuery seq params => Sys2Proof.Machine.execStationQuery seq params s
  | .roster seq params => Sys2Proof.Machine.execRoster seq params s
  | .put seq params => Sys2Proof.Machine.execPut seq params s
  | .get seq params => Sys2Proof.Machine.execGet seq params s
  | .broadcast seq params => Sys2Proof.Machine.execBroadcast seq params s
  | .cancel seq params => Sys2Proof.Machine.execCancel seq params s
  | .queueQuery seq params => Sys2Proof.Machine.execQueueQuery seq params s
  -- takes that carry out no command
  | .cachedResponse seq body => Sys2Proof.Machine.execCachedResponse seq body s
  | .commandCodeUnknown seq body => Sys2Proof.Machine.execCommandCodeUnknown seq body s
  -- the host link receiver
  | .strayByte ch => Sys2Proof.Machine.execStrayByte ch s
  | .badLength b => Sys2Proof.Machine.execBadLength b s
  | .brokenFrame ch => Sys2Proof.Machine.execBrokenFrame ch s
  | .framePauseTimeout => Sys2Proof.Machine.execFramePauseTimeout s
  | .crcError b => Sys2Proof.Machine.execCrcError b s
  | .commandFrame b => Sys2Proof.Machine.execCommandFrame b s
  | .ackFrame b => Sys2Proof.Machine.execAckFrame b s
  | .unknownKindFrame b => Sys2Proof.Machine.execUnknownKindFrame b s
  | .lineBreak => Sys2Proof.Machine.execLineBreak s
  -- the host link transmitter and the report unit
  | .responseFrameBegin => Sys2Proof.Machine.execResponseFrameBegin s
  | .responseDelivered => Sys2Proof.Machine.execResponseDelivered s
  | .reportFrameBegin => Sys2Proof.Machine.execReportFrameBegin s
  | .reportFrameEnd => Sys2Proof.Machine.execReportFrameEnd s
  | .ackTimerExpiry => Sys2Proof.Machine.execAckTimerExpiry s
  -- deadlines and the timetable
  | .deadlineExpiry tag => Sys2Proof.Machine.execDeadlineExpiry tag s
  | .dueTimeReached a => Sys2Proof.Machine.execDueTimeReached a s
  | .latenessSaturated d => Sys2Proof.Machine.execLatenessSaturated d s
  -- the line engine and the telegram framer
  | .sendStart => Sys2Proof.Machine.execSendStart s
  | .callCharacterSent => Sys2Proof.Machine.execCallCharacterSent s
  | .echoReceived ch => Sys2Proof.Machine.execEchoReceived ch s
  | .echoTimeout => Sys2Proof.Machine.execEchoTimeout s
  | .replyTimeout => Sys2Proof.Machine.execReplyTimeout s
  | .telegramStart ch => Sys2Proof.Machine.execTelegramStart ch s
  | .telegramCharacter b => Sys2Proof.Machine.execTelegramCharacter b s
  | .telegramFault ch => Sys2Proof.Machine.execTelegramFault ch s
  | .telegramPauseTimeout => Sys2Proof.Machine.execTelegramPauseTimeout s
  | .telegramComplete b => Sys2Proof.Machine.execTelegramComplete b s
  | .trailingCharacter ch => Sys2Proof.Machine.execTrailingCharacter ch s
  | .framerGapReached => Sys2Proof.Machine.execFramerGapReached s
  | .lrxIdleReturn => Sys2Proof.Machine.execLrxIdleReturn s
  | .broadcastSettled => Sys2Proof.Machine.execBroadcastSettled s
  -- fallback
  | .silenceTimerExpiry => Sys2Proof.Machine.execSilenceTimerExpiry s
  -- reset
  | .nrstAssert => Sys2Proof.Machine.execNrstAssert s
  | .nrstRelease => Sys2Proof.Machine.execNrstRelease s
  | .powerUp => Sys2Proof.Machine.execPowerUp s
  | .supplyFail => Sys2Proof.Machine.execSupplyFail s
  -- further receiver events
  | .leadByte => Sys2Proof.Machine.execLeadByte s
  | .frameByte b => Sys2Proof.Machine.execFrameByte b s
  | .hrxIdleReturn => Sys2Proof.Machine.execHrxIdleReturn s
  | .startBitConfirmed => Sys2Proof.Machine.execStartBitConfirmed s
  | .lineQuietSaturated => Sys2Proof.Machine.execLineQuietSaturated s

end Sys2Proof.Machine
end

