-- ==== Sys2Proof/Machine/Step.lean ====
section
/-!
DEFINITION. One step of the device: the command at the front of the queue, or one cycle of CLK when none waits.
-/

namespace Sys2Proof.Machine

/-- One step. With an empty queue one cycle of CLK passes (log 1). -/
def step (s : State) : Host.Outcome State Fault Refusal :=
  match s.pending with
  | [] => .next (s.elapse 1)
  | c :: rest => exec c { s with pending := rest }

/-- Put a command at the front of the queue. -/
def State.withCommand (c : Instr) (s : State) : State := { s with pending := c :: s.pending }

/-- Put the command a table word spells at the front of the queue; the table gives no row bits, so no word
spells one (log 23). -/
def State.withFetchWord (s : State) (nbits w : Nat) : State :=
  match decodeTableWord nbits w with
  | none => s
  | some c => s.withCommand c

end Sys2Proof.Machine
end

