-- ==== Sys2Proof/WellFormed.lean ====
section
/-!
DEFINITION. Which commands can stand for an event of the device whatever its state: the bounds on a host
frame's body, and what a row's own words say of its operand.
-/

namespace Sys2Proof

/-- The command codes of R195. -/
def commandCodes : List Byte :=
  [0x10#8, 0x11#8, 0x12#8, 0x13#8, 0x14#8, 0x20#8, 0x21#8, 0x22#8, 0x23#8, 0x30#8,
   0x31#8, 0x32#8, 0x33#8, 0x34#8, 0x35#8, 0x40#8, 0x41#8, 0x42#8, 0x43#8, 0x44#8]

/-- A host frame's body holds 0 to 198 bytes (R154); a body with a command code has 197 more at most. -/
def bodyFits (body : List Byte) : Bool := body.length ≤ 198

/-- The operands fit the row, whatever the state. -/
def Instr.wf : Instr → Bool
  | .identify _ p => p.length ≤ 197
  | .status _ p => p.length ≤ 197
  | .restart _ p => p.length ≤ 197
  | .linkSetup _ p => p.length ≤ 197
  | .fallbackSet _ p => p.length ≤ 197
  | .lineSetup _ p => p.length ≤ 197
  | .lineStart _ p => p.length ≤ 197
  | .lineStop _ p => p.length ≤ 197
  | .lineResume _ p => p.length ≤ 197
  | .enrol _ p => p.length ≤ 197
  | .modify _ p => p.length ≤ 197
  | .park _ p => p.length ≤ 197
  | .release _ p => p.length ≤ 197
  | .stationQuery _ p => p.length ≤ 197
  | .roster _ p => p.length ≤ 197
  | .put _ p => p.length ≤ 197
  | .get _ p => p.length ≤ 197
  | .broadcast _ p => p.length ≤ 197
  | .cancel _ p => p.length ≤ 197
  | .queueQuery _ p => p.length ≤ 197
  | .cachedResponse _ body => bodyFits body
  -- R173: an empty body, or a first byte that names no command
  | .commandCodeUnknown _ body => bodyFits body &&
      (match body with
       | [] => true
       | c :: _ => !commandCodes.contains c)
  -- R156: any byte but a lead byte received without framing error
  | .strayByte ch => ch.stop != .idle || ch.data != Config.leadByte
  -- R157: below 2 or above 200
  | .badLength b => b.toNat < 2 || 200 < b.toNat
  -- R157: a byte with a framing error
  | .brokenFrame ch => ch.stop != .idle
  | .framePauseTimeout => true
  | .crcError _ => true
  | .commandFrame _ => true
  | .ackFrame _ => true
  | .unknownKindFrame _ => true
  | .lineBreak => true
  | .responseFrameBegin => true
  | .responseDelivered => true
  | .reportFrameBegin => true
  | .reportFrameEnd => true
  | .ackTimerExpiry => true
  | .deadlineExpiry _ => true
  | .dueTimeReached _ => true
  | .latenessSaturated _ => true
  | .sendStart => true
  | .callCharacterSent => true
  | .echoReceived _ => true
  | .echoTimeout => true
  | .replyTimeout => true
  | .telegramStart _ => true
  | .telegramCharacter _ => true
  -- R83: a framing error, or a length of 33 or more
  | .telegramFault ch => ch.stop != .idle || 33 ≤ ch.data.toNat
  | .telegramPauseTimeout => true
  | .telegramComplete _ => true
  | .trailingCharacter _ => true
  | .framerGapReached => true
  | .lrxIdleReturn => true
  | .broadcastSettled => true
  | .silenceTimerExpiry => true
  | .nrstAssert => true
  | .nrstRelease => true
  | .powerUp => true
  | .supplyFail => true
  | .leadByte => true
  | .frameByte _ => true
  | .hrxIdleReturn => true
  | .startBitConfirmed => true
  | .lineQuietSaturated => true

end Sys2Proof
end

