-- ==== Sys2Proof/Safety.lean ====
section
/-!
DEFINITION. What the statements speak of beside the machine itself: the row of a command, the families of rows,
when the Command Unit is free, and the conditions on a state that the manual says always hold, block by block.
-/

namespace Sys2Proof

/-- The row of a host command. -/
def Machine.CommandName.row (name : Machine.CommandName) (seq : Byte) (params : List Byte) : Instr :=
  match name with
  | .identify => .identify seq params
  | .status => .status seq params
  | .restart => .restart seq params
  | .linkSetup => .linkSetup seq params
  | .fallbackSet => .fallbackSet seq params
  | .lineSetup => .lineSetup seq params
  | .lineStart => .lineStart seq params
  | .lineStop => .lineStop seq params
  | .lineResume => .lineResume seq params
  | .enrol => .enrol seq params
  | .modify => .modify seq params
  | .park => .park seq params
  | .release => .release seq params
  | .stationQuery => .stationQuery seq params
  | .roster => .roster seq params
  | .put => .put seq params
  | .get => .get seq params
  | .broadcast => .broadcast seq params
  | .cancel => .cancel seq params
  | .queueQuery => .queueQuery seq params

namespace Machine

/-! ### Conditions on one command -/

/-- The device is out of reset, HRX is high, and the Command Unit holds no command and no response. -/
def State.commandUnitFree (s : State) : Prop :=
  s.held = false ∧ s.host.hrx = .high ∧ s.host.readySlot = none ∧ s.unit.responseSlot = none

/-- A command with this sequence byte will be carried out, not answered from the cache (R163). -/
def State.willCarryOut (s : State) (seq : Byte) : Prop := s.commandUnitFree ∧ s.host.isCached seq = false

/-- A command with this sequence byte that is received in `s₀` is carried out at that event, on the state `s` that the
good CRC of its own frame leaves (R158, R162, R180). -/
def State.takes (s₀ : State) (seq : Byte) (s : State) : Prop := s₀.willCarryOut seq ∧ s = s₀.goodFrame

/-- The four line commands, whose responses carry the role in every status (R176). -/
def CommandName.carriesRole : CommandName → Bool
  | .lineSetup => true
  | .lineStart => true
  | .lineStop => true
  | .lineResume => true
  | _ => false

/-- The data of a response that is not OK (R176): nothing, or the role for a line command. -/
def refusalData (name : CommandName) (s : State) : List Byte :=
  if name.carriesRole then [s.engine.role.code] else []

/-- The body of a refusal with its status (R173, R176, R198). -/
def refusalBody (name : CommandName) (status : Status) (s : State) : List Byte :=
  name.code :: status.code :: refusalData name s

/-! ### The Station Table (R1, R25, R2, R23) -/

/-- Every field of an entry within the range R1 gives, and the miss count where the state wants it (R25). -/
def Station.fits (e : Station) : Prop :=
  e.level ≤ 7 ∧ 10 ≤ e.period ∧ e.period ≤ 60000 ∧ 1 ≤ e.imageLength ∧ e.imageLength ≤ 16 ∧
  1 ≤ e.missLimit ∧ e.missLimit ≤ 15 ∧
  e.watchMask.length = e.imageLength ∧
  (∀ image ∈ e.image, image.length = e.imageLength) ∧
  (∀ image ∈ e.reportedImage, image.length = e.imageLength) ∧
  (match e.state with
    | .lost => e.missCount = e.missLimit ∧ e.identity.isSome
    | .suspect => 1 ≤ e.missCount ∧ e.missCount < e.missLimit ∧ e.identity.isSome
    | .online => e.missCount = 0 ∧ e.identity.isSome
    | .vacant => e = Station.reset
    | .probing => e.missCount = 0 ∧ e.identity = none
    | .parked => e.missCount = 0)

def StationsOk (s : State) : Prop := ∀ a : Addr, (s.station a).fits

/-! ### The timetable (R3, R55, R69) -/

/-- The exchange in progress is for the station, not orphaned, and of the origin asked about. -/
def LineEngine.serving (origin : Origin → Bool) (a : Addr) (e : LineEngine) : Bool :=
  match e.exchange with
  | none => false
  | some x => x.record.station == some a && origin x.record.origin && !x.record.orphaned

def Origin.isCyclicPoll : Origin → Bool
  | .poll _ => true
  | _ => false

def Origin.isRecoveryPoll : Origin → Bool
  | .recoveryPoll _ => true
  | _ => false

def Origin.isProbe : Origin → Bool
  | .probe _ => true
  | _ => false

def Origin.isRequest : Origin → Bool
  | .request _ => true
  | _ => false

/-- R3, R55: next due is present exactly while the state calls for a poll or probe and that call is not
already committed. -/
def Station.dueFits (engine : LineEngine) (a : Addr) (e : Station) : Bool :=
  match e.state with
  | .vacant => e.nextDue.isNone
  | .parked => e.nextDue.isNone
  | .probing => e.nextDue.isSome != engine.serving Origin.isProbe a
  | .lost => e.nextDue.isSome != engine.serving Origin.isProbe a
  | .suspect => e.nextDue.isSome != engine.serving Origin.isRecoveryPoll a
  | .online =>
    if 1 ≤ e.level then e.nextDue.isSome != engine.serving Origin.isCyclicPoll a else e.nextDue.isNone

/-- R61, R67, R69: the state of the station a committed call is for, and the call's kind. -/
def Origin.fitsState (origin : Origin) (kind : CallKind) (state : StationState) : Bool :=
  match origin with
  | .poll _ => kind == .poll && state == .online
  | .recoveryPoll _ => kind == .poll && (state == .suspect || state == .lost)
  | .probe _ => kind == .hail && (state == .probing || state == .lost)
  | .request _ => (kind == .put || kind == .get) && (state == .online || state == .suspect || state == .lost)
  | .fallback => false

/-- What holds of next due and of a committed call, outside reset. -/
def TimetableOk (s : State) : Prop :=
  s.held = false →
  (∀ a : Addr, (s.station a).dueFits s.engine a = true) ∧
  (∀ x ∈ s.engine.exchange, ∀ a ∈ x.record.station, x.record.orphaned = false →
    x.record.origin.fitsState x.record.kind (s.station a).state = true)

/-! ### The Line Engine and the fallback (R90, R94, R114, R187) -/

/-- R114: the exchange states a role is held with. -/
def LineRole.fitsExchange (role : LineRole) (exchange : Option Exchange) : Bool :=
  match role, exchange with
  | .off, none => true
  | .off, some _ => false
  | .yielded, none => true
  | .yielded, some _ => false
  | .master, _ => true
  | .stopping, none => false
  | .stopping, some x =>
    match x.phase with
    | .gap => false
    | .sending _ _ _ => true
    | .await _ _ => true
    | .receiving => true
    | .settle => true

/-- R90: LDE and the framer in each exchange state. -/
def LineEngine.linesFit (e : LineEngine) : Bool :=
  match e.exchange with
  | none => !e.lde
  | some x =>
    match x.phase with
    | .gap => !e.lde
    | .sending _ ended paired =>
      e.lde && decide (ended ≤ x.record.call.length) && decide (paired ≤ ended + 1) &&
        decide (paired < x.record.call.length)
    | .await _ _ => !e.lde && e.framer == .ready && x.record.kind != .bcast
    | .receiving => !e.lde && e.framer.isCollecting && x.record.kind != .bcast
    | .settle => !e.lde && e.framer == .ready && x.record.kind == .bcast

/-- R76, R83: a telegram being collected holds its header, and no more than its length byte announces. -/
def Framer.fits : Framer → Bool
  | .skipping => true
  | .ready => true
  | .collecting chars =>
    match chars with
    | [] => false
    | [_] => true
    | [_, _] => true
    | _ :: _ :: l :: _ => decide (l.toNat ≤ 32) && decide (chars.length ≤ l.toNat + 4)

/-- The exchange in progress is the fallback broadcast. -/
def LineEngine.onFallback (e : LineEngine) : Bool :=
  match e.exchange with
  | none => false
  | some x => x.record.origin == .fallback

/-- R187: pending, phase and timer together. -/
def Fallback.fits (engine : LineEngine) (f : Fallback) : Bool :=
  (f.timer.isNone || (f.armed && engine.role == .master && !f.pending)) &&
  (!f.pending || engine.role == .master) &&
  (match f.phase with
    | .none => !f.pending && !engine.onFallback
    | .awaitingExchange => f.pending && engine.exchange.isSome && !engine.onFallback
    | .broadcast => engine.onFallback && (f.pending || engine.role == .stopping))

/-- R188: the silence limit and the payload within their ranges. -/
def Fallback.inRange (f : Fallback) : Prop :=
  (f.limit = 0 ∨ (100 ≤ f.limit ∧ f.limit ≤ 60000)) ∧
  ∀ payload ∈ f.payload, 1 ≤ payload.length ∧ payload.length ≤ 32

/-- R115: the line parameters within their ranges. -/
def LineParams.inRange (p : LineParams) : Prop :=
  2 ≤ p.gap ∧ p.gap ≤ 15 ∧ 2 ≤ p.replyTimeout ∧ p.replyTimeout ≤ 250 ∧
  100 ≤ p.probeInterval ∧ p.probeInterval ≤ 10000 ∧ 10 ≤ p.quietInterval ∧ p.quietInterval ≤ 5000

/-- What holds of the line role, the exchange, LDE, the framer and the fallback outside reset. -/
def LineOk (s : State) : Prop :=
  s.held = false →
    s.engine.role.fitsExchange s.engine.exchange = true ∧ s.engine.linesFit = true ∧
    s.engine.framer.fits = true ∧ s.fallback.fits s.engine = true

/-- What holds of the parameters that commands set. -/
def ParametersOk (s : State) : Prop :=
  s.engine.params.inRange ∧ s.fallback.inRange ∧ 20 ≤ s.reports.ackTimeout ∧ s.reports.ackTimeout ≤ 2000

/-! ### The Call Queue (R29 to R31, R36, R132) -/

/-- R29: the ranges of a request record, and the attempts against the allowance (R42). -/
def Request.fits (r : Request) : Prop :=
  1 ≤ r.urgency ∧ r.urgency ≤ 7 ∧ r.allowance ≤ 7 ∧
  (if r.state = .reported then r.attempts ≤ r.allowance + 1 else r.attempts ≤ r.allowance) ∧
  (r.kind = .broadcast ↔ r.station = none) ∧
  1 ≤ r.payload.length ∧ r.payload.length ≤ 32

/-- The tag of the request the exchange in progress serves. -/
def LineEngine.servedTag? (e : LineEngine) : Option Half :=
  match e.exchange with
  | none => none
  | some x =>
    match x.record.origin with
    | .request tag => some tag
    | .poll _ => none
    | .recoveryPoll _ => none
    | .probe _ => none
    | .fallback => none

/-- R35, R36: a station that requests may wait for. -/
def StationState.serves : StationState → Bool
  | .online => true
  | .suspect => true
  | .vacant => false
  | .probing => false
  | .lost => false
  | .parked => false

/-- The tags of the RESULT reports in the report queue, oldest first. -/
def State.resultTags (s : State) : List Half := s.reports.queue.filterMap ReportEntry.resultTag?

/-- The tags of the REPORTED requests, in acceptance order. -/
def State.reportedTags (s : State) : List Half :=
  (s.requests.filter fun r => r.state == .reported).map fun r => r.tag

def CallQueueOk (s : State) : Prop :=
  s.requests.length ≤ 16 ∧
  (s.requests.map fun r => r.tag).Nodup ∧
  (∀ r ∈ s.requests, r.fits) ∧
  (∀ r ∈ s.requests, r.state = .onLine ↔ s.engine.servedTag? = some r.tag) ∧
  (∀ x ∈ s.engine.exchange, x.record.origin.isRequest = true →
    ∃ r ∈ s.requests, x.record.origin = .request r.tag ∧ x.record.station = r.station) ∧
  (∀ x ∈ s.engine.exchange, ∀ a ∈ x.record.station, x.record.origin.isRequest = true →
    x.record.orphaned = false →
    (s.station a).state = .online ∨ (s.station a).state = .suspect ∨ (s.station a).state = .lost) ∧
  (∀ r ∈ s.requests, r.state = .waiting → ∀ a ∈ r.station, (s.station a).state.serves = true) ∧
  s.resultTags.Perm s.reportedTags

/-! ### The Report Unit (R129, R131, R137, R143, R145, R147, R148, R151) -/

def Report.isReady : Report → Bool
  | .ready _ _ => true
  | _ => false

/-- R143: the sequence numbers of `n` SENT entries, oldest first, where `next` is the next number. -/
def sentNumbers (next : Byte) (n : Nat) : List SendState :=
  (List.range n).map fun i => .sent (next - natByte (n - i))

/-- The UNSENT entries. -/
def ReportUnit.unsentEntries (u : ReportUnit) : List ReportEntry := u.queue.filter fun e => !e.status.isSent

def ReportUnit.fits (u : ReportUnit) : Prop :=
  u.attn = !u.queue.isEmpty ∧
  u.queue = u.sentEntries ++ u.unsentEntries ∧
  u.sentEntries.length ≤ 4 ∧
  u.sentEntries.map (fun e => e.status) = sentNumbers u.nextSeq u.sentEntries.length ∧
  u.unsentEntries.Pairwise (fun old new => old.report.merge? new.report = none) ∧
  u.queue.countP (fun e => e.report.isReady) ≤ 1 ∧
  u.roundCount ≤ 8 ∧
  (u.link = .stalled ↔ u.roundCount = 8) ∧
  (u.ackTimer.isSome = true ↔ u.link = .flowing ∧ u.sentEntries ≠ []) ∧
  (∀ q ∈ u.resendPoint, u.link = .flowing ∧ ∃ e ∈ u.queue, e.status = .sent q)

def ReportsOk (s : State) : Prop := s.reports.fits

/-! ### The Host Link and the Command Unit (R157, R162, R164, R167, R170, R182) -/

/-- R157: a frame being assembled has a length byte in range and no more bytes than it announces. -/
def Receiver.fits : Receiver → Bool
  | .hunting => true
  | .assembling bytes _ =>
    match bytes with
    | [] => true
    | l :: _ => !lengthIsBad l && decide (bytes.length ≤ l.toNat + 2)

/-- A response is held: it is the cached one, and only then can a command wait in the ready slot, a rate switch
or a restart be pending, or a response frame be on HTX. -/
def HostSideOk (s : State) : Prop :=
  s.host.receiver.fits = true ∧
  (∀ r ∈ s.unit.responseSlot, s.host.cache = some r) ∧
  (s.unit.responseSlot = none →
    s.host.readySlot = none ∧ s.host.pendingRate = none ∧ s.unit.pendingRestart = false ∧
    s.host.sendingResponse = false)

/-! ### Reset (R186) -/

/-- R186: while the device is held in reset nothing is in progress. -/
def HeldOk (s : State) : Prop :=
  s.held = true →
    s.requests = [] ∧ s.engine.exchange = none ∧ s.engine.lde = false ∧
    s.reports.queue = [] ∧ s.reports.attn = false ∧ s.reports.ackTimer = none ∧
    s.host.tx = none ∧ s.host.receiver = .hunting ∧ s.host.readySlot = none ∧
    s.unit.responseSlot = none ∧ s.unit.pendingRestart = false ∧ s.fallback.timer = none ∧
    s.fallback.pending = false

/-- R185: the value of every piece of state after a full reset, block by block. -/
def AtResetValues (cause : ResetCause) (t : State) : Prop :=
  (∀ a : Addr, t.station a = Station.reset) ∧
  t.requests = [] ∧
  (t.engine.role = .off ∧ t.engine.exchange = none ∧ t.engine.lde = false ∧
    t.engine.params = ⟨.r57600, 3, 20, 1000, 200⟩ ∧ t.engine.framer = .skipping ∧ t.engine.quietSince = 0 ∧
    t.engine.counters = ⟨0, 0, 0, 0⟩) ∧
  (t.reports.queue = [⟨.ready cause 0x02#8, .unsent⟩] ∧ t.reports.link = .flowing ∧ t.reports.nextSeq = 0 ∧
    t.reports.roundCount = 0 ∧ t.reports.ackTimer = none ∧ t.reports.ackTimeout = 100 ∧
    t.reports.resendPoint = none ∧ t.reports.unknownAcks = 0 ∧ t.reports.retransmissions = 0 ∧
    t.reports.attn = true) ∧
  (t.host.rate = .r115200 ∧ t.host.pendingRate = none ∧ t.host.receiver = .hunting ∧ t.host.readySlot = none ∧
    t.host.cache = none ∧ t.host.tx = none ∧ t.host.counters = ⟨0, 0, 0, 0, 0, 0⟩) ∧
  t.unit = ⟨none, false⟩ ∧
  t.fallback = ⟨0, none, none, false, .none⟩ ∧
  t.clock = 0 ∧ t.held = false

/-- Everything that holds of the device at all times (R114 to R187, block by block). -/
def DeviceOk (s : State) : Prop :=
  StationsOk s ∧ TimetableOk s ∧ LineOk s ∧ CallQueueOk s ∧ ReportsOk s ∧ HostSideOk s ∧ ParametersOk s ∧ HeldOk s

/-! ### The completion of an exchange (R106, R107) -/

/-- `t` is the state after the exchange `x` in progress in `s` has completed with the outcome and the reply data: the
exchange is over and counted (R112), the Call Queue decides the request it served (R107), the Station Table applies the
outcome, unless the exchange is an orphan (R14, R111), and then follows what the role and the fallback demand (R106,
R120, R190, R192). -/
def State.CompletesTo (s : State) (x : Exchange) (outcome : ExOutcome) (data : List Byte) (t : State) : Prop :=
  ∃ closed decided applied : State,
    closed =
      { s with
        engine :=
          { s.engine with
            exchange := none
            lde := false
            counters :=
              match outcome with
              | .good | .refused _ =>
                { s.engine.counters with
                  goodReplies :=
                    if s.engine.counters.goodReplies = 0xFFFF#16 then 0xFFFF#16
                    else s.engine.counters.goodReplies + 1 }
              | .noReply | .garbled _ | .wrongSource | .stale =>
                { s.engine.counters with
                  misses :=
                    if s.engine.counters.misses = 0xFFFF#16 then 0xFFFF#16 else s.engine.counters.misses + 1 }
              | .collision _ | .sent => s.engine.counters } } ∧
    decided =
      (match x.record.origin with
        | .request tag => closed.decideRequest tag ⟨x.record, outcome, data⟩
        | .poll _ | .recoveryPoll _ | .probe _ | .fallback => closed) ∧
    applied =
      (match x.record.station with
        | none => decided
        | some a => if x.record.orphaned then decided else decided.applyOutcome a ⟨x.record, outcome, data⟩) ∧
    (s.engine.role = .master → x.record.origin ≠ .fallback → s.fallback.pending = false → t = applied.select) ∧
    (s.engine.role = .master → x.record.origin ≠ .fallback → s.fallback.pending = true →
      (∀ payload, s.fallback.payload = some payload →
        t =
          { applied with
            engine := LineEngine.tryStart
              { applied.engine with
                exchange := some
                  { record :=
                      { origin := .fallback, station := none, kind := .bcast, payload := payload,
                        toggleSent := none, imageLength := none, orphaned := false }
                    phase := .gap } }
            fallback := { s.fallback with phase := .broadcast } }) ∧
      (s.fallback.payload = none →
        t =
          State.putReport (.line .master .off .fallback .omitted 0)
            { applied with
              engine := { applied.engine with role := .off }
              fallback := { s.fallback with timer := none, pending := false, phase := .none } })) ∧
    (s.engine.role = .stopping → x.record.origin ≠ .fallback →
      t =
        State.putReport (.line .stopping .off .stopped .none 0)
          { applied with
            engine := { applied.engine with role := .off }
            fallback := { s.fallback with timer := none, pending := false, phase := .none } }) ∧
    (s.engine.role = .master ∨ s.engine.role = .stopping → x.record.origin = .fallback →
      t =
        State.putReport (.line s.engine.role .off .fallback .sent 0)
          { applied with
            engine := { applied.engine with role := .off }
            fallback := { s.fallback with timer := none, pending := false, phase := .none } })

/-! ### Bytes received in turn -/

/-- The state after a command, where the command has a next state. -/
def State.after (s : State) (c : Instr) : State :=
  match exec c s with
  | .next t => t
  | .fault _ => s
  | .refused _ => s

/-- Bytes on HRX that fill the positions of a frame one after another. -/
def State.receive (s : State) (bytes : List Byte) : State :=
  bytes.foldl (fun u b => u.after (.frameByte b)) s

end Machine

end Sys2Proof
end

