-- ==== Sys2Proof/Certificates/Slice0/Obligations.lean ====
section
/-!
DEFINITION. The statements for the provers, from the numbered rules of spec/.
-/

section

open Sys2Proof Sys2Proof.Machine

/-! ### The queue of commands and the clock -/

/-- A step takes the command at the front of the queue and runs its meaning on the state with the queue's rest. -/
def Obligations.StepRunsTheFrontCommand : Prop :=
  ∀ (c : Instr) (rest : List Instr) (s : State),
    step { s with pending := c :: rest } = exec c { s with pending := rest }

/-- With nothing waiting, a step is one cycle of CLK (the model's choice, log 1): the millisecond clock rises by 1
each 16,000 cycles (R181), the measures of time in CLK cycles (the quiet, the time since LDE was asserted, the time a
frame has been on HTX, the time HRX has been low) go on up to 65,535 ms, where they stay (the model's choice, log 12),
and nothing else changes; held in reset, nothing at all. -/
def Obligations.IdleStepIsOneCycleOfClk : Prop :=
  ∀ s : State, s.pending = [] → s.subMs < 16000 →
    (s.held = true → step s = .next s) ∧
    (s.held = false →
      step s = .next
        { s with
          clock := if s.subMs = 15999 then s.clock + 1 else s.clock
          subMs := if s.subMs = 15999 then 0 else s.subMs + 1
          engine :=
            { s.engine with
              quiet := min (65535 * 16000) (s.engine.quiet + 1)
              exchange := s.engine.exchange.map fun x =>
                { x with phase :=
                    match x.phase with
                    | .sending elapsed ended paired => .sending (min (65535 * 16000) (elapsed + 1)) ended paired
                    | other => other } }
          host :=
            { s.host with
              hrx :=
                match s.host.hrx with
                | .high => .high
                | .low elapsed declared => .low (min (65535 * 16000) (elapsed + 1)) declared
              tx := s.host.tx.map fun f => { f with elapsed := min (65535 * 16000) (f.elapsed + 1) } } })

/-- Every command and event has a next state in every state, also where the state does not allow its event (the
model's choice, log 2: nothing then changes), and leaves the queue of commands as it is, also over a reset (the
model's choice, log 16). -/
def Obligations.NoCommandStopsTheDevice : Prop :=
  ∀ (c : Instr) (s : State), ∃ t, exec c s = .next t ∧ t.pending = s.pending

/-! ### Reset -/

/-- R183 to R185: which event ends a full reset, with which cause, and the values every block then holds. State.reset
is taken as the state right after power-up, with HRX high (the model's choices, log 15 and log 14). HRX is an input
and no event changes it by a reset: a low through the reset is measured afresh from its end (R169; which lows the model
knows of: log 14). The queue of commands is kept over the reset (the model's choice, log 16). -/
def Obligations.FullResetLeavesResetValues : Prop :=
  AtResetValues .power State.reset ∧ State.reset.host.hrx = .high ∧
  Station.reset =
    ⟨.vacant, 0, 1000, 1, [0xFF#8], .changes, 3, 0, none, none, none, none, false, none, 0, 0, 0, 0, none⟩ ∧
  (∀ s : State, s.power.nrstLow = true → s.power.supplyInRange = true →
    ∃ t, exec .nrstRelease s = .next t ∧
      AtResetValues (if s.power.supplyLost then .power else .pin) t ∧ t.pending = s.pending ∧
      t.host.hrx = if s.host.hrx = .high then .high else .low 0 false) ∧
  (∀ s : State, s.power.nrstLow = true → s.power.supplyInRange = false →
    exec .nrstRelease s = .next { s with power := { s.power with nrstLow := false } }) ∧
  (∀ s : State, s.power.nrstLow = false → s.power.supplyInRange = false →
    ∃ t, exec .powerUp s = .next t ∧ AtResetValues .power t ∧ t.pending = s.pending ∧
      t.host.hrx = if s.host.hrx = .high then .high else .low 0 false) ∧
  (∀ s : State, s.power.nrstLow = true → s.power.supplyInRange = false →
    exec .powerUp s = .next { s with power := { s.power with supplyInRange := true } })

/-- R183, R184, R186: NRST going low, or the supply leaving its range, abandons every operation in progress; the
other registers keep their values until the full reset (the model's reading, log 13). Held in reset the device takes
nothing but the events of NRST and of the supply; the rows of a low on HRX and of its end then only say at which
level HRX stands (the model's choice, log 14). -/
def Obligations.ResetAbandonsAllWorkAndHolds : Prop :=
  ∀ (s abandoned : State),
    abandoned =
      { s with
        requests := []
        engine := { s.engine with exchange := none, lde := false }
        reports := { s.reports with queue := [], attn := false, ackTimer := none, resendPoint := none }
        host := { s.host with receiver := .hunting, readySlot := none, tx := none, pendingRate := none }
        unit := ⟨none, false⟩
        fallback := { s.fallback with timer := none, pending := false, phase := .none } } →
    (s.power.nrstLow = false →
      exec .nrstAssert s = .next { abandoned with power := { s.power with nrstLow := true } }) ∧
    (s.power.supplyInRange = true →
      exec .supplyFail s =
        .next { abandoned with power := { s.power with supplyInRange := false, supplyLost := true } }) ∧
    ∀ c : Instr, s.power.nrstLow = true ∨ s.power.supplyInRange = false →
      exec .lineBreak s = .next { s with host := { s.host with hrx := .low 0 false } } ∧
      exec .hrxIdleReturn s = .next { s with host := { s.host with hrx := .high } } ∧
      (c ≠ .nrstAssert → c ≠ .nrstRelease → c ≠ .powerUp → c ≠ .supplyFail → c ≠ .lineBreak →
        c ≠ .hrxIdleReturn → exec c s = .next s)

/-! ### Device commands

In the statements of the commands `s₀` is the state in which the whole COMMAND frame is received and `s` the state its
good CRC leaves (log 4), on which it is carried out: `CommandFrameGivesNoticeAndRuns` says what that is. -/

/-- R177: IDENTIFY answers OK with the six fixed values and changes nothing; it takes no parameters. -/
def Obligations.IdentifyAnswersFixedValues : Prop :=
  ∀ (s₀ s : State) (seq : Byte), s₀.takes seq s →
    exec (.identify seq []) s₀ =
      .next (s.respond
        ⟨seq, [0x10#8, 0x00#8, 0x52#8, 0xC1#8, 0x31#8, 0xB0#8, 0x02#8, 31#8, 16#8, 96#8]⟩) ∧
    ∀ (b : Byte) (rest : List Byte),
      exec (.identify seq (b :: rest)) s₀ = .next (s.respond ⟨seq, [0x10#8, 0x01#8]⟩)

/-- R178, R179, R198: the view STATUS places in its response, and what clear flag 1 sets to 0 after it. -/
def Obligations.StatusShowsTheViewThenClears : Prop :=
  ∀ (s₀ s : State) (seq flag : Byte) (view : List Byte), s₀.takes seq s →
    view =
      [s.engine.role.code, s.reports.link.code, exchangeCode s.engine.exchange,
        natByte (s.requests.filter fun r => r.state == .waiting).length, natByte s.requests.length,
        natByte s.reports.unsentEntries.length, natByte s.reports.sentEntries.length,
        flagByte (s.fallback.limit != 0), flagByte s.fallback.pending] ++
      clockBytes s.clock ++
      [s.host.counters.crcErrors, s.host.counters.overruns, s.host.counters.brokenFrames,
        s.host.counters.badLengths, s.host.counters.strayBytes, s.host.counters.breaks,
        s.reports.unknownAcks, s.reports.retransmissions,
        s.engine.counters.callsSent, s.engine.counters.goodReplies, s.engine.counters.misses,
        s.engine.counters.contentions].flatMap halfBytes →
    view.length = 37 ∧
    (flag = 0#8 → exec (.status seq [flag]) s₀ = .next (s.respond ⟨seq, 0x11#8 :: 0x00#8 :: view⟩)) ∧
    (flag = 1#8 →
      exec (.status seq [flag]) s₀ =
        .next (State.respond ⟨seq, 0x11#8 :: 0x00#8 :: view⟩
          { s with
            host := { s.host with counters := ⟨0, 0, 0, 0, 0, 0⟩ }
            engine := { s.engine with counters := ⟨0, 0, 0, 0⟩ }
            reports := { s.reports with unknownAcks := 0, retransmissions := 0 } })) ∧
    (flag ≠ 0#8 → flag ≠ 1#8 →
      exec (.status seq [flag]) s₀ = .next (s.respond ⟨seq, [0x11#8, 0x03#8]⟩))

/-- R182, R170: RESTART is answered OK and only sets the pending restart; the full reset with cause RESTART comes
with the delivery of the response, or with a break that stops it. A low on HRX through the reset is measured afresh
from its end (R169). The queue of commands is kept over the reset (the model's choice, log 16). -/
def Obligations.RestartFollowsItsResponse : Prop :=
  (∀ (s₀ s : State) (seq : Byte), s₀.takes seq s →
    exec (.restart seq []) s₀ =
      .next (State.respond ⟨seq, [0x12#8, 0x00#8]⟩ { s with unit := { s.unit with pendingRestart := true } })) ∧
  (∀ (s : State) (frame : TxFrame), s.held = false → s.unit.pendingRestart = true →
    s.host.tx = some frame → frame.source = .response →
    (frame.ended = true →
      ∃ t, exec .responseDelivered s = .next t ∧ AtResetValues .restart t ∧ t.pending = s.pending ∧
        t.host.hrx = if s.host.hrx = .high then .high else .low 0 false) ∧
    (∀ elapsed, s.host.hrx = .low elapsed false → 16000 ≤ elapsed →
      ∃ t, exec .lineBreak s = .next t ∧ AtResetValues .restart t ∧ t.pending = s.pending ∧
        t.host.hrx = .low 0 false))

/-- R167: LINK_SETUP stores the ack timeout at once and the rate as the pending rate; a rate code of 4 or more or a
timeout outside 20 to 2,000 ms is OUT_OF_RANGE and changes nothing. -/
def Obligations.LinkSetupStoresTimeoutAndPendingRate : Prop :=
  ∀ (s₀ s : State) (seq rate hi lo : Byte) (ms : Nat), s₀.takes seq s → ms = hi.toNat * 256 + lo.toNat →
    (∀ r : HostRate,
      (rate = 0#8 ∧ r = .r115200 ∨ rate = 1#8 ∧ r = .r230400 ∨ rate = 2#8 ∧ r = .r460800 ∨
        rate = 3#8 ∧ r = .r921600) →
      20 ≤ ms → ms ≤ 2000 →
      exec (.linkSetup seq [rate, hi, lo]) s₀ =
        .next (State.respond ⟨seq, [0x13#8, 0x00#8]⟩
          { s with
            reports := { s.reports with ackTimeout := ms }
            host := { s.host with pendingRate := some r } })) ∧
    (4 ≤ rate.toNat ∨ ms < 20 ∨ 2000 < ms →
      exec (.linkSetup seq [rate, hi, lo]) s₀ = .next (s.respond ⟨seq, [0x13#8, 0x03#8]⟩))

/-- R188: FALLBACK_SET replaces limit and payload in every role; the silence timer restarts only in MASTER with
fallback not pending and a limit other than 0, and otherwise is stopped. -/
def Obligations.FallbackSetStoresLimitAndPayload : Prop :=
  ∀ (s₀ s : State) (seq hi lo n : Byte) (payload : List Byte) (ms : Nat), s₀.takes seq s →
    ms = hi.toNat * 256 + lo.toNat → payload.length = n.toNat → s.fallback.fits s.engine = true →
    ((ms = 0 ∨ 100 ≤ ms ∧ ms ≤ 60000) → n.toNat ≤ 32 →
      exec (.fallbackSet seq (hi :: lo :: n :: payload)) s₀ =
        .next (State.respond ⟨seq, [0x14#8, 0x00#8]⟩
          { s with
            fallback :=
              { s.fallback with
                limit := ms
                payload := if payload = [] then none else some payload
                timer :=
                  if s.engine.role = .master ∧ s.fallback.pending = false ∧ ms ≠ 0 then some s.clock
                  else none } })) ∧
    (1 ≤ ms ∧ ms ≤ 99 ∨ 60000 < ms ∨ 32 < n.toNat →
      exec (.fallbackSet seq (hi :: lo :: n :: payload)) s₀ = .next (s.respond ⟨seq, [0x14#8, 0x03#8]⟩))

/-! ### Line commands -/

/-- R116: LINE_SETUP stores the five line parameters in OFF; a change of rate or gap puts the framer into SKIPPING
and abandons a character being received; LRX that is held away from the idle level stays so (the model's reading,
log 11). In another role it is refused. The response carries the role. -/
def Obligations.LineSetupStoresParametersInOff : Prop :=
  ∀ (s₀ s : State) (seq code gap reply p1 p0 q1 q0 : Byte) (rate : Option LineRate) (inRange : Prop)
    (params : LineRate → LineParams), s₀.takes seq s →
    rate = [LineRate.r19200, .r38400, .r57600, .r115200, .r250000, .r500000][code.toNat]? →
    (inRange ↔ 2 ≤ gap.toNat ∧ gap.toNat ≤ 15 ∧ 2 ≤ reply.toNat ∧ reply.toNat ≤ 250 ∧
      100 ≤ p1.toNat * 256 + p0.toNat ∧ p1.toNat * 256 + p0.toNat ≤ 10000 ∧
      10 ≤ q1.toNat * 256 + q0.toNat ∧ q1.toNat * 256 + q0.toNat ≤ 5000) →
    (params = fun r =>
      ⟨r, gap.toNat, reply.toNat, p1.toNat * 256 + p0.toNat, q1.toNat * 256 + q0.toNat⟩) →
    (∀ r, rate = some r → inRange → s.engine.role = .off →
      exec (.lineSetup seq [code, gap, reply, p1, p0, q1, q0]) s₀ =
        .next (State.respond ⟨seq, [0x20#8, 0x00#8, 0x00#8]⟩
          { s with
            engine :=
              if r = s.engine.params.rate ∧ gap.toNat = s.engine.params.gap then
                { s.engine with params := params r }
              else { s.engine with params := params r, framer := .skipping, charInProgress := false } })) ∧
    (∀ r, rate = some r → inRange → s.engine.role ≠ .off →
      exec (.lineSetup seq [code, gap, reply, p1, p0, q1, q0]) s₀ =
        .next (s.respond ⟨seq, [0x20#8, 0x04#8, s.engine.role.code]⟩)) ∧
    (rate = none ∨ ¬ inRange →
      exec (.lineSetup seq [code, gap, reply, p1, p0, q1, q0]) s₀ =
        .next (s.respond ⟨seq, [0x20#8, 0x03#8, s.engine.role.code]⟩))

/-- R117, R189, R64: LINE_START in OFF makes the role MASTER, restarts the silence timer of an armed fallback and
makes a selection before the response is built; in another role it is refused. -/
def Obligations.LineStartTakesTheLine : Prop :=
  ∀ (s₀ s master : State) (seq : Byte), s₀.takes seq s →
    master =
      { s with
        engine := { s.engine with role := .master }
        fallback :=
          if s.fallback.limit ≠ 0 ∧ s.fallback.pending = false then { s.fallback with timer := some s.clock }
          else s.fallback } →
    (s.engine.role = .off →
      exec (.lineStart seq []) s₀ = .next (master.select.respond ⟨seq, [0x21#8, 0x00#8, 0x01#8]⟩)) ∧
    (s.engine.role ≠ .off →
      exec (.lineStart seq []) s₀ = .next (s.respond ⟨seq, [0x21#8, 0x04#8, s.engine.role.code]⟩))

/-- R118, R119, R127: LINE_STOP is answered OK in every role. In MASTER it makes the role OFF with the Line Engine
IDLE and STOPPING past GAP; in YIELDED it makes the role OFF; in OFF and STOPPING nothing changes. Leaving MASTER
stops the silence timer and clears fallback pending; the fallback broadcast past GAP keeps its phase. -/
def Obligations.LineStopLeavesTheLine : Prop :=
  ∀ (s₀ s : State) (seq : Byte), s₀.takes seq s →
    (s.engine.role = .off → exec (.lineStop seq []) s₀ = .next (s.respond ⟨seq, [0x22#8, 0x00#8, 0x00#8]⟩)) ∧
    (s.engine.role = .stopping →
      exec (.lineStop seq []) s₀ = .next (s.respond ⟨seq, [0x22#8, 0x00#8, 0x02#8]⟩)) ∧
    (s.engine.role = .yielded → LineOk s →
      exec (.lineStop seq []) s₀ =
        .next (State.respond ⟨seq, [0x22#8, 0x00#8, 0x00#8]⟩
          { s with engine := { s.engine with role := .off } })) ∧
    (s.engine.role = .master → s.engine.exchange = none →
      exec (.lineStop seq []) s₀ =
        .next (State.respond ⟨seq, [0x22#8, 0x00#8, 0x00#8]⟩
          { s with
            engine := { s.engine with role := .off }
            fallback := { s.fallback with timer := none, pending := false, phase := .none } })) ∧
    (∀ x, s.engine.role = .master → s.engine.exchange = some x → x.phase ≠ .gap →
      exec (.lineStop seq []) s₀ =
        .next (State.respond ⟨seq, [0x22#8, 0x00#8, 0x02#8]⟩
          { s with
            engine := { s.engine with role := .stopping }
            fallback :=
              { s.fallback with
                timer := none
                pending := false
                phase := if x.record.origin = .fallback then .broadcast else .none } }))

/-- R109, R118, R69, R39, R44: LINE_STOP in GAP undoes the commitment without an outcome; the role is OFF and no
line counter moves. A poll, recovery poll or probe gets its anchor back where the state of its station still calls
for it, and is discarded otherwise, as is the fallback broadcast. A request within its deadline returns to WAITING
with its last outcome as it was; past its deadline it completes with EXPIRED, as an orphan with CANCELLED, and at a
station that has become LOST meanwhile with STATION_LOST (the model's reading, log 24). -/
def Obligations.LineStopInGapUndoesTheCommitment : Prop :=
  ∀ (s₀ s off : State) (x : Exchange) (seq : Byte), s₀.takes seq s →
    s.engine.role = .master → s.engine.exchange = some x → x.phase = .gap →
    off =
      { s with
        engine := { s.engine with role := .off, exchange := none }
        fallback := { s.fallback with timer := none, pending := false, phase := .none } } →
    (x.record.origin = .fallback →
      exec (.lineStop seq []) s₀ = .next (off.respond ⟨seq, [0x22#8, 0x00#8, 0x00#8]⟩)) ∧
    (∀ (a : Addr) (anchor : DueTime), x.record.station = some a → x.record.orphaned = false →
      (x.record.origin = .poll anchor ∧ (s.station a).state = .online ∧ 1 ≤ (s.station a).level ∨
        x.record.origin = .recoveryPoll anchor ∧ (s.station a).state = .suspect ∨
        x.record.origin = .probe anchor ∧ ((s.station a).state = .probing ∨ (s.station a).state = .lost)) →
      exec (.lineStop seq []) s₀ =
        .next (State.respond ⟨seq, [0x22#8, 0x00#8, 0x00#8]⟩
          (off.setStation a { s.station a with nextDue := some anchor }))) ∧
    (∀ (a : Addr) (anchor : DueTime), x.record.station = some a →
      (x.record.origin = .poll anchor ∧
          (x.record.orphaned = true ∨ (s.station a).state ≠ .online ∨ (s.station a).level = 0) ∨
        x.record.origin = .recoveryPoll anchor ∧ (x.record.orphaned = true ∨ (s.station a).state ≠ .suspect) ∨
        x.record.origin = .probe anchor ∧
          (x.record.orphaned = true ∨ (s.station a).state ≠ .probing ∧ (s.station a).state ≠ .lost)) →
      exec (.lineStop seq []) s₀ = .next (off.respond ⟨seq, [0x22#8, 0x00#8, 0x00#8]⟩)) ∧
    (∀ r : Request, x.record.origin = .request r.tag → s.findRequest r.tag = some r →
      x.record.station = r.station → (s.requests.map fun q => q.tag).Nodup →
      (∀ a, r.station = some a → (s.station a).state = .lost → ∀ q ∈ s.requests, q.tag ≠ r.tag →
        q.state = .waiting → q.station ≠ some a) →
      (x.record.orphaned = false → r.deadlinePassed s.clock = false →
        (∀ a, r.station = some a → (s.station a).state ≠ .lost) →
        exec (.lineStop seq []) s₀ =
          .next (State.respond ⟨seq, [0x22#8, 0x00#8, 0x00#8]⟩
            { off with
              requests := s.requests.map fun q =>
                if q.tag = r.tag then { q with state := .waiting } else q })) ∧
      (∀ result : RequestResult,
        (x.record.orphaned = true ∧ result = .cancelled ∨
          x.record.orphaned = false ∧ r.deadlinePassed s.clock = true ∧ result = .expired ∨
          x.record.orphaned = false ∧ r.deadlinePassed s.clock = false ∧ result = .stationLost ∧
            ∃ a, r.station = some a ∧ (s.station a).state = .lost) →
        exec (.lineStop seq []) s₀ =
          .next (State.respond ⟨seq, [0x22#8, 0x00#8, 0x00#8]⟩
            { off with
              requests := s.requests.map fun q =>
                if q.tag = r.tag then { q with state := .reported } else q
              reports :=
                { s.reports with
                  queue := s.reports.queue ++
                    [⟨.result r.tag r.kind result r.attempts r.lastOutcome [], .unsent⟩]
                  attn := true } })))

/-- R121, R122: LINE_RESUME makes a YIELDED device MASTER when the line has been quiet for the quiet interval, as
LINE_START does; otherwise it is refused with LINE_ACTIVE, and in another role with WRONG_ROLE. -/
def Obligations.LineResumeNeedsAQuietLine : Prop :=
  ∀ (s₀ s master : State) (seq : Byte) (quietMs : Nat) (quiet : Prop), s₀.takes seq s →
    quietMs = (if s.engine.quietSaturated then 65535 else min 65535 (s.clock - s.engine.quietSince).toNat) →
    (quiet ↔ s.engine.charInProgress = false ∧ s.engine.lrxHeld = false ∧
      s.engine.params.quietInterval ≤ quietMs) →
    master =
      { s with
        engine := { s.engine with role := .master }
        fallback :=
          if s.fallback.limit ≠ 0 ∧ s.fallback.pending = false then { s.fallback with timer := some s.clock }
          else s.fallback } →
    (s.engine.role = .yielded → quiet →
      exec (.lineResume seq []) s₀ = .next (master.select.respond ⟨seq, [0x23#8, 0x00#8, 0x01#8]⟩)) ∧
    (s.engine.role = .yielded → ¬ quiet →
      exec (.lineResume seq []) s₀ = .next (s.respond ⟨seq, [0x23#8, 0x0C#8, 0x03#8]⟩)) ∧
    (s.engine.role ≠ .yielded →
      exec (.lineResume seq []) s₀ = .next (s.respond ⟨seq, [0x23#8, 0x04#8, s.engine.role.code]⟩))

/-! ### Station commands -/

/-- R4, R5, R57, R64, R174, R175, R197: the parts of an ENROL body, the range of each, and what an ENROL in range
does: of a VACANT or PARKED entry it replaces the whole entry, makes a probe due at once and causes a selection where
one can be made; in another state it is refused. -/
def Obligations.EnrolStartsTheStationAfresh : Prop :=
  ∀ (s₀ s : State) (seq address level p1 p0 length mode n : Byte) (mask params : List Byte) (limit : Option Byte)
    (expected : Option Identity) (period : Nat) (inRange : Prop), s₀.takes seq s →
    mask.length = n.toNat → period = p1.toNat * 256 + p0.toNat →
    params =
      [address, level, p1, p0, length, mode, n] ++ mask ++
      (match limit with
        | none => [0#8]
        | some b => [1#8, b]) ++
      (match expected with
        | none => [0#8]
        | some i => 1#8 :: halfBytes i.typeCode ++ [i.revision]) →
    (inRange ↔
      1 ≤ address.toNat ∧ address.toNat ≤ 31 ∧ level.toNat ≤ 7 ∧ 10 ≤ period ∧ period ≤ 60000 ∧
      1 ≤ length.toNat ∧ length.toNat ≤ 16 ∧ mode.toNat ≤ 2 ∧ (mask = [] ∨ mask.length = length.toNat) ∧
      ∀ b, limit = some b → 1 ≤ b.toNat ∧ b.toNat ≤ 15) →
    (¬ inRange → exec (.enrol seq params) s₀ = .next (s.respond ⟨seq, [0x30#8, 0x03#8]⟩)) ∧
    (∀ (a : Addr) (reportMode : ReportMode), inRange → address.toNat = a.val + 1 →
      [ReportMode.changes, .every, .silent][mode.toNat]? = some reportMode →
      ((s.station a).state = .vacant ∨ (s.station a).state = .parked →
        exec (.enrol seq params) s₀ =
          .next (State.respond ⟨seq, [0x30#8, 0x00#8]⟩
            (s.setStation a
              { state := .probing
                level := level.toNat
                period := period
                imageLength := length.toNat
                watchMask := if mask = [] then List.replicate length.toNat 0xFF#8 else mask
                reportMode := reportMode
                missLimit := (limit.map fun b => b.toNat).getD 3
                missCount := 0
                expected := expected
                identity := none
                image := none
                reportedImage := none
                toggle := false
                nextDue := some ⟨s.clock, true, false⟩
                goodExchanges := 0
                missedExchanges := 0
                pollOverruns := 0
                probeMisses := 0
                lastFault := none }).select)) ∧
      ((s.station a).state ≠ .vacant → (s.station a).state ≠ .parked →
        exec (.enrol seq params) s₀ = .next (s.respond ⟨seq, [0x30#8, 0x06#8]⟩)))

/-- R6, R9, R10, R11, R22, R36, R174, R175, R197: the parts of a MODIFY body and the range of each; the refusals; and
what a MODIFY in range leaves: the parameters in the entry, the change of image geometry, the miss count, and entry
into LOST with its due probe, its STATION report and the removal of the waiting requests. Everything else of the
device stays as it is, but for the selection that a poll made due at once can cause. The due time is the next
statement's. -/
def Obligations.ModifyStoresItsParameters : Prop :=
  (∀ (address n : Byte) (level length mode limit : Option Byte) (period : Option Half) (mask : List Byte)
    (part : Option (List Byte) → List Byte), mask.length = n.toNat →
    (part = fun p =>
      match p with
      | none => [0#8]
      | some bytes => 1#8 :: bytes) →
    layoutModify
      ([address] ++ part (level.map fun b => [b]) ++ part (period.map halfBytes) ++
        part (length.map fun b => [b]) ++ [n] ++ mask ++ part (mode.map fun b => [b]) ++
        part (limit.map fun b => [b])) =
      some ⟨address, level, period, length, mask, mode, limit⟩) ∧
  (∀ (present : Addr → Nat) (raw : RawModify) (inRange : Addr → Prop),
    (∀ a, inRange a ↔
      raw.address.toNat = a.val + 1 ∧ (∀ b, raw.level = some b → b.toNat ≤ 7) ∧
      (∀ h, raw.period = some h → 10 ≤ h.toNat ∧ h.toNat ≤ 60000) ∧
      (∀ b, raw.imageLength = some b → 1 ≤ b.toNat ∧ b.toNat ≤ 16) ∧
      (raw.watchMask = [] ∨
        raw.watchMask.length =
          (match raw.imageLength with
            | none => present a
            | some b => b.toNat)) ∧
      (∀ b, raw.reportMode = some b → b.toNat ≤ 2) ∧
      ∀ b, raw.missLimit = some b → 1 ≤ b.toNat ∧ b.toNat ≤ 15) →
    ((∀ a, ¬ inRange a) → rangeModify present raw = none) ∧
    ∀ a, inRange a →
      rangeModify present raw =
        some
          { address := a
            level := raw.level.map fun b => b.toNat
            period := raw.period.map fun h => h.toNat
            imageLength := raw.imageLength.map fun b => b.toNat
            watchMask := if raw.watchMask = [] then none else some raw.watchMask
            reportMode := raw.reportMode.bind fun b => [ReportMode.changes, .every, .silent][b.toNat]?
            missLimit := raw.missLimit.map fun b => b.toNat }) ∧
  ∀ (s₀ s : State) (seq : Byte) (params : List Byte) (raw : RawModify), s₀.takes seq s →
    layoutModify params = some raw →
    (rangeModify (fun a => (s.station a).imageLength) raw = none →
      exec (.modify seq params) s₀ = .next (s.respond ⟨seq, [0x31#8, 0x03#8]⟩)) ∧
    (∀ p, rangeModify (fun a => (s.station a).imageLength) raw = some p →
      ((s.station p.address).state = .vacant →
        exec (.modify seq params) s₀ = .next (s.respond ⟨seq, [0x31#8, 0x05#8]⟩)) ∧
      (∀ (base : State) (e e' : Station) (polled raised lost : Prop), base = s.modifyStation p →
        e = s.station p.address → e' = base.station p.address → e.state ≠ .vacant →
        (polled ↔ ∃ (x : Exchange) (d : DueTime), s.engine.exchange = some x ∧
          x.record.station = some p.address ∧ x.record.orphaned = false ∧
          (x.record.origin = .poll d ∨ x.record.origin = .recoveryPoll d)) →
        (raised ↔ e.state = .online ∧ e.level = 0 ∧ ¬ polled ∧ ∃ l, p.level = some l ∧ 1 ≤ l) →
        (lost ↔ e.state = .suspect ∧ ∃ l, p.missLimit = some l ∧ l ≤ e.missCount) →
        (¬ raised →
          exec (.modify seq params) s₀ = .next (base.respond ⟨seq, [0x31#8, 0x00#8]⟩)) ∧
        (raised →
          exec (.modify seq params) s₀ = .next (base.select.respond ⟨seq, [0x31#8, 0x00#8]⟩)) ∧
        e'.level = p.level.getD e.level ∧ e'.period = p.period.getD e.period ∧
        e'.imageLength = p.imageLength.getD e.imageLength ∧ e'.reportMode = p.reportMode.getD e.reportMode ∧
        e'.missLimit = p.missLimit.getD e.missLimit ∧ e'.expected = e.expected ∧ e'.identity = e.identity ∧
        e'.toggle = e.toggle ∧ e'.goodExchanges = e.goodExchanges ∧ e'.missedExchanges = e.missedExchanges ∧
        e'.pollOverruns = e.pollOverruns ∧ e'.probeMisses = e.probeMisses ∧ e'.lastFault = e.lastFault ∧
        (e'.imageLength = e.imageLength →
          e'.watchMask = p.watchMask.getD e.watchMask ∧ e'.image = e.image ∧
          (¬ lost → e'.reportedImage = e.reportedImage)) ∧
        (e'.imageLength ≠ e.imageLength →
          e'.watchMask = p.watchMask.getD (List.replicate e'.imageLength 0xFF#8) ∧ e'.image = none ∧
          e'.reportedImage = none) ∧
        (¬ lost → e'.state = e.state ∧
          e'.missCount = if e.state = .lost then p.missLimit.getD e.missCount else e.missCount) ∧
        (∀ b, b ≠ p.address → base.station b = s.station b) ∧
        (¬ lost → base = { s with stations := base.stations }) ∧
        (lost → (s.requests.map fun r => r.tag).Nodup →
          e'.state = .lost ∧ e'.missCount = e'.missLimit ∧ e'.reportedImage = none ∧
          e'.nextDue = some ⟨s.clock + BitVec.ofNat 32 s.engine.params.probeInterval, false, false⟩ ∧
          base =
            { s with
              stations := base.stations
              requests := s.requests.map fun r =>
                if r.state = .waiting ∧ r.station = some p.address then { r with state := .reported } else r
              reports :=
                { s.reports with
                  queue :=
                    placeReport (.station p.address .suspect .lost .misses none 0) s.reports.queue ++
                    ((s.requests.filter fun r => r.state == .waiting && r.station == some p.address).map fun r =>
                      ⟨.result r.tag r.kind .stationLost r.attempts r.lastOutcome [], .unsent⟩)
                  attn := true } })))

/-- R7, R8, R70: the due time that a MODIFY leaves in an entry that does not become LOST, in every role: a level raised
from 0 makes a poll due at once unless one is in progress, level 0 removes the due poll, another level leaves it; and
then a period given pulls in a due time more than one new period ahead. -/
def Obligations.ModifyMovesTheDueTime : Prop :=
  ∀ (s₀ s : State) (seq : Byte) (params : List Byte) (raw : RawModify) (p : ModifyParams) (e : Station)
    (due left : Option DueTime) (polled raised : Prop),
    s₀.takes seq s → layoutModify params = some raw →
    rangeModify (fun a => (s.station a).imageLength) raw = some p → e = s.station p.address →
    e.state ≠ .vacant → (e.state = .suspect → ∀ l, p.missLimit = some l → e.missCount < l) →
    (polled ↔ ∃ (x : Exchange) (d : DueTime), s.engine.exchange = some x ∧
      x.record.station = some p.address ∧ x.record.orphaned = false ∧
      (x.record.origin = .poll d ∨ x.record.origin = .recoveryPoll d)) →
    (raised ↔ e.state = .online ∧ e.level = 0 ∧ ¬ polled ∧ ∃ l, p.level = some l ∧ 1 ≤ l) →
    (raised → due = some ⟨s.clock, true, false⟩) →
    (e.state = .online → p.level = some 0 → due = none) →
    (¬ raised → ¬ (e.state = .online ∧ p.level = some 0) → due = e.nextDue) →
    left = ((s.modifyStation p).station p.address).nextDue →
    (¬ raised →
      exec (.modify seq params) s₀ = .next ((s.modifyStation p).respond ⟨seq, [0x31#8, 0x00#8]⟩)) ∧
    (raised →
      exec (.modify seq params) s₀ = .next ((s.modifyStation p).select.respond ⟨seq, [0x31#8, 0x00#8]⟩)) ∧
    (p.period = none ∨ e.state ≠ .online ∧ e.state ≠ .suspect → left = due) ∧
    (∀ n, p.period = some n → e.state = .online ∨ e.state = .suspect →
      (due = none → left = none) ∧
      ∀ d, due = some d →
        (d.reached = true ∨ d.saturated = true ∨ (s.clock - d.time).toNat < 2147483648 ∨
            (d.time - s.clock).toNat ≤ n →
          left = some d) ∧
        (d.reached = false → d.saturated = false → 2147483648 ≤ (s.clock - d.time).toNat →
          n < (d.time - s.clock).toNat →
          left = some ⟨s.clock + BitVec.ofNat 32 n, false, false⟩))

/-- R12, R13, R14, R48, R110: PARK and RELEASE of an enrolled station: what becomes of the entry, of the requests
waiting for it and of an exchange for it, and what they leave alone; the refusals, and PARK of a PARKED station. -/
def Obligations.ParkAndReleaseTakeTheStationOff : Prop :=
  ∀ (s₀ s : State) (seq b : Byte) (a : Addr) (orphaned : Option Exchange), s₀.takes seq s →
    b.toNat = a.val + 1 → (s.requests.map fun r => r.tag).Nodup →
    orphaned =
      (s.engine.exchange.map fun x =>
        if x.record.station = some a then { x with record := { x.record with orphaned := true } } else x) →
    ((s.station a).state = .vacant →
      exec (.park seq [b]) s₀ = .next (s.respond ⟨seq, [0x32#8, 0x05#8]⟩) ∧
      exec (.release seq [b]) s₀ = .next (s.respond ⟨seq, [0x33#8, 0x05#8]⟩)) ∧
    ((s.station a).state = .parked →
      exec (.park seq [b]) s₀ = .next (s.respond ⟨seq, [0x32#8, 0x00#8]⟩)) ∧
    ((s.station a).state ≠ .vacant → (s.station a).state ≠ .parked →
      ∃ t, exec (.park seq [b]) s₀ = .next t ∧
        t.station a = { s.station a with state := .parked, missCount := 0, nextDue := none } ∧
        (∀ c, c ≠ a → t.station c = s.station c) ∧
        t.requests = (s.requests.map fun r =>
          if r.state = .waiting ∧ r.station = some a then { r with state := .reported } else r) ∧
        t.engine = { s.engine with exchange := orphaned } ∧
        t.reports.queue = s.reports.queue ++ ((s.requests.filter fun r =>
          r.state == .waiting && r.station == some a).map fun r =>
            ⟨.result r.tag r.kind .cancelled r.attempts r.lastOutcome [], .unsent⟩) ∧
        t.unit.responseSlot = some ⟨seq, [0x32#8, 0x00#8]⟩ ∧ t.fallback = s.fallback ∧ t.clock = s.clock) ∧
    ((s.station a).state ≠ .vacant →
      ∃ t, exec (.release seq [b]) s₀ = .next t ∧
        t.station a = Station.reset ∧
        (∀ c, c ≠ a → t.station c = s.station c) ∧
        t.requests = (s.requests.map fun r =>
          if r.state = .waiting ∧ r.station = some a then { r with state := .reported } else r) ∧
        t.engine = { s.engine with exchange := orphaned } ∧
        t.reports.queue = s.reports.queue ++ ((s.requests.filter fun r =>
          r.state == .waiting && r.station == some a).map fun r =>
            ⟨.result r.tag r.kind .cancelled r.attempts r.lastOutcome [], .unsent⟩) ∧
        t.unit.responseSlot = some ⟨seq, [0x33#8, 0x00#8]⟩ ∧ t.fallback = s.fallback ∧ t.clock = s.clock)

/-- R15, R198: STATION_QUERY answers with the whole record of the entry and changes nothing; an address outside 1
to 31 is OUT_OF_RANGE. -/
def Obligations.StationQueryShowsTheEntry : Prop :=
  ∀ (s₀ s : State) (seq b : Byte) (a : Addr) (e : Station) (record : List Byte), s₀.takes seq s →
    e = s.station a →
    record =
      [b, e.state.code, natByte e.level] ++ halfBytes (natHalf e.period) ++
      [natByte e.imageLength, e.reportMode.code, natByte e.missLimit, natByte e.missCount, flagByte e.toggle] ++
      (match e.expected with
        | none => [0#8, 0#8, 0#8, 0#8]
        | some i => 1#8 :: halfBytes i.typeCode ++ [i.revision]) ++
      (match e.identity with
        | none => [0#8, 0#8, 0#8, 0#8]
        | some i => 1#8 :: halfBytes i.typeCode ++ [i.revision]) ++
      (match e.nextDue with
        | none => [0#8, 0#8, 0#8, 0#8, 0#8]
        | some d => 1#8 :: clockBytes d.time) ++
      halfBytes e.goodExchanges ++ halfBytes e.missedExchanges ++ halfBytes e.pollOverruns ++
      halfBytes e.probeMisses ++
      (match e.lastFault with
        | none => [0#8, 0#8, 0#8, 0#8, 0#8, 0#8, 0#8, 0#8]
        | some f => [1#8, f.outcome.code, f.outcome.detailCode, f.kind.code] ++ clockBytes f.time) ++
      e.watchMask ++
      (match e.image with
        | none => 0#8 :: List.replicate e.imageLength 0#8
        | some image => 1#8 :: image) ++
      (match e.reportedImage with
        | none => 0#8 :: List.replicate e.imageLength 0#8
        | some image => 1#8 :: image) →
    (b.toNat = a.val + 1 →
      exec (.stationQuery seq [b]) s₀ = .next (s.respond ⟨seq, 0x34#8 :: 0x00#8 :: record⟩) ∧
      (e.fits → record.length = 41 + 3 * e.imageLength)) ∧
    (b.toNat = 0 ∨ 31 < b.toNat →
      exec (.stationQuery seq [b]) s₀ = .next (s.respond ⟨seq, [0x34#8, 0x03#8]⟩))

/-- R16, R52, R198: ROSTER and QUEUE_QUERY answer with their lists and change nothing; a body of more than the
command code is MALFORMED. -/
def Obligations.RosterAndQueueQueryListTheirEntries : Prop :=
  ∀ (s₀ s : State) (seq : Byte), s₀.takes seq s →
    exec (.roster seq []) s₀ =
      .next (s.respond
        ⟨seq, 0x35#8 :: 0x00#8 :: ((List.finRange 31).filter fun a => (s.station a).state != .vacant).flatMap
          fun a => [natByte (a.val + 1), (s.station a).state.code]⟩) ∧
    exec (.queueQuery seq []) s₀ =
      .next (s.respond
        ⟨seq, 0x44#8 :: 0x00#8 :: s.requests.flatMap fun r =>
          halfBytes r.tag ++
          [match r.station with
            | none => 0#8
            | some a => natByte (a.val + 1),
           r.kind.code, r.state.code, natByte r.attempts]⟩) ∧
    ∀ (b : Byte) (rest : List Byte),
      exec (.roster seq (b :: rest)) s₀ = .next (s.respond ⟨seq, [0x35#8, 0x01#8]⟩) ∧
      exec (.queueQuery seq (b :: rest)) s₀ = .next (s.respond ⟨seq, [0x44#8, 0x01#8]⟩)

/-! ### Request commands -/

/-- R32, R33, R34, R35, R176: the ranges of PUT, GET and BROADCAST; one that fails a check is refused with the status
of the first check it fails, and nothing else changes. -/
def Obligations.RequestsAreRefusedInOrder : Prop :=
  (∀ (kind : RequestKind) (raw : RawRequest),
    rangeStationRequest kind raw = none ↔
      ¬ (1 ≤ raw.station.toNat ∧ raw.station.toNat ≤ 31 ∧ 1 ≤ raw.urgency.toNat ∧ raw.urgency.toNat ≤ 7 ∧
        raw.allowance.toNat ≤ 7 ∧ 1 ≤ raw.payload.length ∧ raw.payload.length ≤ 32)) ∧
  (∀ raw : RawRequest,
    rangeBroadcast raw = none ↔
      ¬ (1 ≤ raw.urgency.toNat ∧ raw.urgency.toNat ≤ 7 ∧ 1 ≤ raw.payload.length ∧ raw.payload.length ≤ 32)) ∧
  ∀ (s₀ s : State) (seq : Byte) (params : List Byte) (name : CommandName) (raw : RawRequest)
    (ranged : Option RequestParams), s₀.takes seq s →
    (name = .put ∧ layoutPut params = some raw ∧ ranged = rangeStationRequest .put raw ∨
      name = .get ∧ layoutGet params = some raw ∧ ranged = rangeStationRequest .get raw ∨
      name = .broadcast ∧ layoutBroadcast params = some raw ∧ ranged = rangeBroadcast raw) →
    (ranged = none → exec (name.row seq params) s₀ = .next (s.respond ⟨seq, [name.code, 0x03#8]⟩)) ∧
    (∀ p, ranged = some p →
      ((∃ r ∈ s.requests, r.tag = p.tag) →
        exec (name.row seq params) s₀ = .next (s.respond ⟨seq, [name.code, 0x09#8]⟩)) ∧
      ((∀ r ∈ s.requests, r.tag ≠ p.tag) → 16 ≤ s.requests.length →
        exec (name.row seq params) s₀ = .next (s.respond ⟨seq, [name.code, 0x08#8]⟩)) ∧
      (∀ a, (∀ r ∈ s.requests, r.tag ≠ p.tag) → s.requests.length < 16 → p.station = some a →
        (s.station a).state ≠ .online → (s.station a).state ≠ .suspect →
        exec (name.row seq params) s₀ = .next (s.respond ⟨seq, [name.code, 0x07#8]⟩)))

/-- R29, R32 to R35, R37: the parts of a PUT, GET and BROADCAST body and the request they ask for. A request that passes
every check joins the live set behind every live request, WAITING, with no attempts; where no earlier request for its
station is in the Call Queue it is eligible and can be selected at once. The response carries the tag and the new live
count. -/
def Obligations.RequestsAreAccepted : Prop :=
  (∀ (t1 t0 station urgency allowance d1 d0 n item : Byte) (payload : List Byte), payload.length = n.toNat →
    layoutPut ([t1, t0, station, urgency, allowance, d1, d0, n] ++ payload) =
      some ⟨t1 ++ t0, station, urgency, allowance, d1 ++ d0, payload⟩ ∧
    layoutGet [t1, t0, station, urgency, allowance, d1, d0, item] =
      some ⟨t1 ++ t0, station, urgency, allowance, d1 ++ d0, [item]⟩ ∧
    layoutBroadcast ([t1, t0, urgency, d1, d0, n] ++ payload) =
      some ⟨t1 ++ t0, 0#8, urgency, 0#8, d1 ++ d0, payload⟩) ∧
  (∀ (kind : RequestKind) (raw : RawRequest) (p : RequestParams) (deadline : Option Nat),
    deadline = (if raw.deadline = 0#16 then none else some raw.deadline.toNat) →
    (rangeStationRequest kind raw = some p →
      ∃ a : Addr, raw.station.toNat = a.val + 1 ∧
        p = ⟨raw.tag, kind, some a, raw.urgency.toNat, raw.allowance.toNat, deadline, raw.payload⟩) ∧
    (rangeBroadcast raw = some p →
      p = ⟨raw.tag, .broadcast, none, raw.urgency.toNat, 0, deadline, raw.payload⟩)) ∧
  ∀ (s₀ s queued : State) (seq : Byte) (params : List Byte) (name : CommandName) (raw : RawRequest)
    (p : RequestParams), s₀.takes seq s →
    (name = .put ∧ layoutPut params = some raw ∧ rangeStationRequest .put raw = some p ∨
      name = .get ∧ layoutGet params = some raw ∧ rangeStationRequest .get raw = some p ∨
      name = .broadcast ∧ layoutBroadcast params = some raw ∧ rangeBroadcast raw = some p) →
    (∀ r ∈ s.requests, r.tag ≠ p.tag) → s.requests.length < 16 →
    (∀ a, p.station = some a → (s.station a).state = .online ∨ (s.station a).state = .suspect) →
    queued =
      { s with
        requests := s.requests ++
          [{ tag := p.tag, kind := p.kind, station := p.station, urgency := p.urgency,
             allowance := p.allowance, deadline := p.deadline, payload := p.payload,
             acceptedAt := s.clock, attempts := 0, lastOutcome := none, state := .waiting }] } →
    exec (name.row seq params) s₀ =
      .next (State.respond
        ⟨seq, [name.code, 0x00#8] ++ halfBytes p.tag ++ [natByte (s.requests.length + 1)]⟩
        (if ∃ r ∈ s.requests, r.station = p.station ∧ r.state ≠ .reported then queued else queued.select))

/-- R46, R49, R50, R64: CANCEL by what its tag names. -/
def Obligations.CancelActsByTheRequestsState : Prop :=
  ∀ (s₀ s : State) (seq hi lo : Byte) (tag : Half), s₀.takes seq s → tag = hi ++ lo →
    ((∀ r ∈ s.requests, r.tag ≠ tag) →
      exec (.cancel seq [hi, lo]) s₀ = .next (s.respond ⟨seq, [0x43#8, 0x0A#8]⟩)) ∧
    (∀ r, s.findRequest tag = some r → r.state = .onLine ∨ r.state = .reported →
      exec (.cancel seq [hi, lo]) s₀ = .next (s.respond ⟨seq, [0x43#8, 0x0B#8]⟩)) ∧
    (∀ (r : Request) (removed : State), s.findRequest tag = some r → r.state = .waiting →
      removed =
        { s with
          requests := s.requests.map fun q => if q.tag = tag then { q with state := .reported } else q
          reports :=
            { s.reports with
              queue := s.reports.queue ++
                [⟨.result tag r.kind .cancelled r.attempts r.lastOutcome [], .unsent⟩]
              attn := true } } →
      exec (.cancel seq [hi, lo]) s₀ =
        .next (State.respond ⟨seq, [0x43#8, 0x00#8]⟩
          (if removed.hasEligible r.station then removed.select else removed)))

/-! ### Taking commands -/

/-- R158, R163: a command whose sequence is that of the command last executed is answered from the response cache,
whatever it asks; beside that only the good CRC of its own frame has its effect (log 4). -/
def Obligations.CachedCommandsAreNotCarriedOut : Prop :=
  ∀ (s₀ s : State) (cached : Response), s₀.commandUnitFree → s₀.host.cache = some cached → s = s₀.goodFrame →
    (∀ (name : CommandName) (params : List Byte),
      exec (name.row cached.seq params) s₀ =
        .next { s with unit := { s.unit with responseSlot := some cached } }) ∧
    (∀ body : List Byte,
      exec (.cachedResponse cached.seq body) s₀ =
        .next { s with unit := { s.unit with responseSlot := some cached } })

/-- R158, R160, R162: a command that comes while a response is undelivered waits in the ready slot; one that finds the
ready slot full is discarded and raises the overruns counter, which saturates. Either way the good CRC of its frame has
its effect: the row of a command stands for its whole frame (the model's reading, log 4). While HRX is low no frame is
received and nothing changes. -/
def Obligations.CommandsWaitOrOverrun : Prop :=
  ∀ (s : State) (name : CommandName) (seq : Byte) (params : List Byte) (waiting : Response), s.held = false →
    (s.host.hrx ≠ .high → exec (name.row seq params) s = .next s) ∧
    (s.host.hrx = .high → s.unit.responseSlot = some waiting →
      (s.host.readySlot = none →
        exec (name.row seq params) s =
          .next (State.goodFrame
            { s with host := { s.host with readySlot := some ⟨seq, name.code :: params⟩ } })) ∧
      (∀ f, s.host.readySlot = some f →
        exec (name.row seq params) s =
          .next (State.goodFrame
            { s with
              host :=
                { s.host with
                  counters :=
                    { s.host.counters with
                      overruns :=
                        if s.host.counters.overruns = 0xFFFF#16 then 0xFFFF#16
                        else s.host.counters.overruns + 1 } } })))

/-- R173, R174, R176, R197, R198, R164: the first checks of a command. A body with no command code is MALFORMED and
echoes 00h; a code that names no command is echoed with UNKNOWN_COMMAND; a body whose length does not fit the
command's layout is MALFORMED: commands without parameters, commands of a fixed length, and the parts that a length
byte or a presence flag announces. Only the response slot and the cache change. -/
def Obligations.BadBodiesAreRefused : Prop :=
  ∀ (s₀ s : State) (seq : Byte), s₀.takes seq s →
    exec (.commandCodeUnknown seq []) s₀ =
      .next
        { s with
          unit := { s.unit with responseSlot := some ⟨seq, [0x00#8, 0x01#8]⟩ }
          host := { s.host with cache := some ⟨seq, [0x00#8, 0x01#8]⟩ } } ∧
    (∀ (code : Byte) (rest : List Byte), commandCodes.contains code = false →
      exec (.commandCodeUnknown seq (code :: rest)) s₀ =
        .next
          { s with
            unit := { s.unit with responseSlot := some ⟨seq, [code, 0x02#8]⟩ }
            host := { s.host with cache := some ⟨seq, [code, 0x02#8]⟩ } }) ∧
    ∀ (name : CommandName) (params : List Byte),
      (name ∈ [CommandName.identify, .restart, .lineStart, .lineStop, .lineResume, .roster, .queueQuery] ∧
          params ≠ [] ∨
        name ∈ [CommandName.status, .park, .release, .stationQuery] ∧ params.length ≠ 1 ∨
        name = .linkSetup ∧ params.length ≠ 3 ∨
        name = .lineSetup ∧ params.length ≠ 7 ∨
        name = .get ∧ params.length ≠ 8 ∨
        name = .cancel ∧ params.length ≠ 2 ∨
        name = .fallbackSet ∧ (params.length < 3 ∨ params.length ≠ 3 + (params.getD 2 0#8).toNat) ∨
        name = .put ∧ (params.length < 8 ∨ params.length ≠ 8 + (params.getD 7 0#8).toNat) ∨
        name = .broadcast ∧ (params.length < 6 ∨ params.length ≠ 6 + (params.getD 5 0#8).toNat) ∨
        name = .enrol ∧ (params.length < 9 ∨ params.length < 9 + (params.getD 6 0#8).toNat) ∨
        name = .modify ∧ (params.length < 7 ∨ 2 ≤ (params.getD 1 0#8).toNat)) →
      exec (name.row seq params) s₀ =
        .next (s.respond
          ⟨seq, name.code :: 0x01#8 ::
            (if name ∈ [CommandName.lineSetup, .lineStart, .lineStop, .lineResume] then [s.engine.role.code]
             else [])⟩)

/-! ### The host link -/

/-- R156 to R161, R169, R181: what each byte or pause at the receiver does to the receiver and its counters; nothing
else of the device changes, but where a framing error leaves HRX and what a good CRC changes. The pause of 20 ms is
measured on the millisecond clock (the model's reading, log 20) from the row of the last byte, the middle of its stop
bit (the model's choice, log 25). A low that a framing error leaves on HRX is measured from its falling edge, which the
0 bits that stand last in the byte give (the model's reading, log 26). A length byte with a framing error counts as a
broken frame, whatever its value (the model's choice, log 27). -/
def Obligations.ReceiverCountsEachFault : Prop :=
  ∀ (s : State) (counters : HostCounters) (raised : Half → Half) (hrxAfter : RxChar → HrxLevel → Prop),
    s.held = false → s.host.hrx = .high →
    counters = s.host.counters → (raised = fun c => if c = 0xFFFF#16 then 0xFFFF#16 else c + 1) →
    (∀ ch after, hrxAfter ch after ↔
      (ch.stop ≠ .errorHeld → after = .high) ∧
      ∀ zeros halfBits : Nat, ch.stop = .errorHeld → zeros ≤ 8 → ch.data.toNat < 2 ^ (8 - zeros) →
        (zeros < 8 → 2 ^ (7 - zeros) ≤ ch.data.toNat) →
        halfBits = (if zeros = 8 then 19 else 1 + 2 * zeros) →
        after = .low (halfBits * 16000000 / (2 * s.host.rate.bps)) false) →
    (s.host.receiver = .hunting →
      exec .leadByte s = .next { s with host := { s.host with receiver := .assembling [] s.clock } }) ∧
    (∀ (ch : RxChar) (after : HrxLevel), s.host.receiver = .hunting → (ch.stop ≠ .idle ∨ ch.data ≠ 0xA7#8) →
      hrxAfter ch after →
      exec (.strayByte ch) s =
        .next { s with
          host := { s.host with hrx := after, counters := { counters with strayBytes := raised counters.strayBytes } } }) ∧
    (∀ (b : Byte) (bytes : List Byte) (ended : Clock), s.host.receiver = .assembling bytes ended →
      (bytes = [] ∧ 2 ≤ b.toNat ∧ b.toNat ≤ 200 ∨ ∃ l rest, bytes = l :: rest ∧ bytes.length ≠ l.toNat + 2) →
      exec (.frameByte b) s =
        .next { s with host := { s.host with receiver := .assembling (bytes ++ [b]) s.clock } }) ∧
    (∀ (b : Byte) (ended : Clock), s.host.receiver = .assembling [] ended → (b.toNat < 2 ∨ 200 < b.toNat) →
      exec (.badLength b) s =
        .next { s with
          host :=
            { s.host with
              receiver := .hunting
              counters := { counters with badLengths := raised counters.badLengths } } }) ∧
    (∀ (ch : RxChar) (after : HrxLevel) (bytes : List Byte) (ended : Clock),
      s.host.receiver = .assembling bytes ended → ch.stop ≠ .idle → hrxAfter ch after →
      exec (.brokenFrame ch) s =
        .next { s with
          host :=
            { s.host with
              receiver := .hunting
              hrx := after
              counters := { counters with brokenFrames := raised counters.brokenFrames } } }) ∧
    (∀ (bytes : List Byte) (ended : Clock), s.host.receiver = .assembling bytes ended →
      (20 < (s.clock - ended).toNat →
        exec .framePauseTimeout s =
          .next { s with
            host :=
              { s.host with
                receiver := .hunting
                counters := { counters with brokenFrames := raised counters.brokenFrames } } }) ∧
      ((s.clock - ended).toNat ≤ 20 → exec .framePauseTimeout s = .next s)) ∧
    (∀ (b : Byte) (f : ReceivedFrame), s.host.completedBy? b = some f → f.crcGood = false →
      exec (.crcError b) s =
        .next { s with
          host :=
            { s.host with
              receiver := .hunting
              counters := { counters with crcErrors := raised counters.crcErrors } } }) ∧
    (∀ (b : Byte) (f : ReceivedFrame), s.host.completedBy? b = some f → f.crcGood = true →
      f.kind ≠ 0x01#8 → f.kind ≠ 0x02#8 →
      exec (.unknownKindFrame b) s =
        .next (State.goodFrame
          { s with
            host := { s.host with counters := { counters with strayBytes := raised counters.strayBytes } } }))

/-- R80, R154, R158, R196: the frame the device itself builds for a kind, a sequence and a body of 0 to 198 bytes,
received byte by byte from its lead byte on, is read back with that kind, sequence and body and a right CRC; any
other value of its last byte gives a wrong CRC. -/
def Obligations.FrameSentIsFrameReceived : Prop :=
  ∀ (s : State) (kind seq last b : Byte) (body middle : List Byte),
    s.held = false → s.host.hrx = .high → s.host.receiver = .hunting → body.length ≤ 198 →
    hostFrame kind seq body = 0xA7#8 :: middle ++ [last] →
    ((s.after .leadByte).receive middle).host.completedBy? last = some ⟨kind, seq, body, true⟩ ∧
    (b ≠ last →
      ((s.after .leadByte).receive middle).host.completedBy? b = some ⟨kind, seq, body, false⟩)

/-- R158, R160, R162, R180, R189, R149: a COMMAND frame with a good CRC does what the command's own row does, which
stands for the whole frame (the model's reading, log 4); a body that names no command is that of COMMAND_CODE_UNKNOWN.
The end of every frame with a good CRC returns the receiver to HUNTING and gives a notice, which restarts the silence
timer of an armed fallback in MASTER, and ends STALLED with the resend point at the oldest SENT entry and the ack timer
restarted. -/
def Obligations.CommandFrameGivesNoticeAndRuns : Prop :=
  (∀ (s : State) (b : Byte) (f : ReceivedFrame), s.held = false → s.host.completedBy? b = some f →
    f.crcGood = true → f.kind = 0x01#8 →
    (∀ (name : CommandName) (params : List Byte), f.body = name.code :: params →
      ∃ t, exec (.commandFrame b) s = .next t ∧ exec (name.row f.seq params) s = .next t) ∧
    ((∀ code rest, f.body = code :: rest → commandCodes.contains code = false) →
      ∃ t, exec (.commandFrame b) s = .next t ∧ exec (.commandCodeUnknown f.seq f.body) s = .next t)) ∧
  ∀ s : State,
    s.goodFrame.fallback =
      (if s.fallback.limit ≠ 0 ∧ s.engine.role = .master ∧ s.fallback.pending = false then
        { s.fallback with timer := some s.clock } else s.fallback) ∧
    s.goodFrame =
      { s with
        fallback := s.goodFrame.fallback
        reports := s.goodFrame.reports
        host := { s.host with receiver := .hunting } } ∧
    (s.reports.link = .flowing → s.goodFrame.reports = s.reports) ∧
    (s.reports.link = .stalled →
      (∀ (sent later : List ReportEntry) (q : Byte) (r : Report), s.reports.queue = sent ++ ⟨r, .sent q⟩ :: later →
        (∀ e ∈ sent, e.status = .unsent) →
        s.goodFrame.reports =
          { s.reports with
            link := .flowing
            roundCount := 0
            resendPoint := some q
            ackTimer := some ⟨s.clock, s.reports.ackTimeout⟩ }) ∧
      ((∀ e ∈ s.reports.queue, e.status = .unsent) →
        s.goodFrame.reports = { s.reports with link := .flowing, roundCount := 0 }))

/-- R145, R146, R51, R132, R147, R151, R159: an ACK that names a SENT entry removes it and every older one, releases
the requests of their RESULT reports, and restarts the ack timer while SENT entries remain; one that names none only
raises the unknown ACKs counter. What a good CRC does follows. -/
def Obligations.AckRemovesEveryReportUpToIt : Prop :=
  ∀ (s acked : State) (b : Byte) (f : ReceivedFrame), s.held = false →
    s.host.completedBy? b = some f → f.crcGood = true → f.kind = 0x02#8 → s.reports.fits →
    (∀ (older rest : List ReportEntry) (e : ReportEntry), s.reports.queue = older ++ e :: rest →
      e.status = .sent f.seq →
      acked =
        { s with
          requests :=
            s.requests.filter fun r => !((older ++ [e]).filterMap ReportEntry.resultTag?).contains r.tag
          reports :=
            { s.reports with
              queue := rest
              attn := !rest.isEmpty
              roundCount := 0
              ackTimer :=
                if rest.any (fun e => e.status.isSent) then some ⟨s.clock, s.reports.ackTimeout⟩ else none
              resendPoint :=
                match s.reports.resendPoint with
                | none => none
                | some q => if rest.any (ReportEntry.sentAs q) then some q else oldestSent rest } } →
      exec (.ackFrame b) s = .next acked.goodFrame) ∧
    ((∀ e ∈ s.reports.queue, e.status ≠ .sent f.seq) →
      exec (.ackFrame b) s =
        .next (State.goodFrame
          { s with
            reports :=
              { s.reports with
                unknownAcks :=
                  if s.reports.unknownAcks = 0xFFFF#16 then 0xFFFF#16 else s.reports.unknownAcks + 1 } }))

/-- R153, R162, R169, R170, R152: HRX low for 1 ms, 16,000 cycles from its falling edge (how the edge is known: log 26),
is a break, and one continuous low is one break: before that, after it, and with HRX high the row names no event and
changes nothing (the model's choice, log 2). What a break does with a response on HTX, which then counts as delivered, so
that a command in the ready slot is taken, with a report on HTX, or with none. HRX_IDLE_RETURN lets bytes be recognised
again; while HRX is low none is. -/
def Obligations.BreakReturnsTheLinkToItsFirstRate : Prop :=
  ∀ (s broken : State) (elapsed : Nat), s.held = false →
    broken =
      { s with
        host :=
          { s.host with
            rate := .r115200
            receiver := .hunting
            hrx := .low elapsed true
            tx := none
            counters :=
              { s.host.counters with
                breaks := if s.host.counters.breaks = 0xFFFF#16 then 0xFFFF#16 else s.host.counters.breaks + 1 } } } →
    (s.host.hrx = .high ∨ s.host.hrx = .low elapsed true ∨ s.host.hrx = .low elapsed false ∧ elapsed < 16000 →
      exec .lineBreak s = .next s) ∧
    (s.host.hrx = .low elapsed false → 16000 ≤ elapsed →
      ((∀ f, s.host.tx = some f → f.source = .report) → exec .lineBreak s = .next broken) ∧
      (∀ (f : TxFrame) (freed : State), s.host.tx = some f → f.source = .response →
        s.unit.pendingRestart = false →
        freed =
          { broken with
            host := { broken.host with pendingRate := none }
            unit := { s.unit with responseSlot := none } } →
        (s.host.readySlot = none → exec .lineBreak s = .next freed) ∧
        (∀ c, s.host.readySlot = some c →
          exec .lineBreak s =
            .next (State.takeFrame c { freed with host := { freed.host with readySlot := none } })))) ∧
    exec .hrxIdleReturn s = .next { s with host := { s.host with hrx := .high } } ∧
    (s.host.hrx ≠ .high → ∀ (c : Instr) (b : Byte) (ch : RxChar),
      c ∈ [Instr.leadByte, .strayByte ch, .frameByte b, .badLength b, .brokenFrame ch, .crcError b,
        .commandFrame b, .ackFrame b, .unknownKindFrame b] →
      exec c s = .next s)

/-- R162, R166, R168: the end of a response frame delivers it: the response slot empties, a pending rate other than
the one in force takes over and clears the assembling slot, and the command in the ready slot is taken. -/
def Obligations.DeliveryFreesTheCommandUnit : Prop :=
  ∀ (s sent : State) (f : TxFrame), s.held = false → s.host.tx = some f → f.source = .response →
    160000000 * f.bytes.length ≤ f.elapsed * f.rate.bps → s.unit.pendingRestart = false →
    sent =
      { s with
        unit := { s.unit with responseSlot := none }
        host :=
          { s.host with
            tx := none
            pendingRate := none
            rate := s.host.pendingRate.getD s.host.rate
            receiver :=
              if s.host.pendingRate.getD s.host.rate = s.host.rate then s.host.receiver else .hunting } } →
    (s.host.readySlot = none → exec .responseDelivered s = .next sent) ∧
    (∀ c, s.host.readySlot = some c →
      exec .responseDelivered s =
        .next (State.takeFrame c { sent with host := { sent.host with readySlot := none } }))

/-- R143, R144, R147, R154, R165, R166, R194, R199: what begins on an idle transmitter, a waiting response before any
report, and the end of a report frame. A STALLED Report Unit offers none, nor does one with four SENT entries and no
resend point. The bytes of a frame and of each kind of report body. -/
def Obligations.TransmitterBeginsFrames : Prop :=
  ∀ s : State, s.held = false →
    (∀ r, s.host.tx = none → s.unit.responseSlot = some r →
      exec .responseFrameBegin s =
        .next { s with
          host := { s.host with tx := some ⟨.response, hostFrame 0x81#8 r.seq r.body, s.host.rate, 0⟩ } } ∧
      exec .reportFrameBegin s = .next s) ∧
    (∀ (q : Byte) (earlier later : List ReportEntry) (e : ReportEntry), s.host.tx = none →
      s.unit.responseSlot = none → s.reports.link = .flowing → s.reports.resendPoint = some q →
      s.reports.queue = earlier ++ e :: later → e.status = .sent q →
      (∀ x ∈ earlier, x.status ≠ .sent q) →
      exec .reportFrameBegin s =
        .next { s with
          reports :=
            { s.reports with
              retransmissions :=
                if s.reports.retransmissions = 0xFFFF#16 then 0xFFFF#16 else s.reports.retransmissions + 1
              resendPoint := oldestSent later }
          host := { s.host with tx := some ⟨.report, hostFrame 0x82#8 q e.report.body, s.host.rate, 0⟩ } }) ∧
    (∀ (sent later : List ReportEntry) (r : Report), s.host.tx = none → s.unit.responseSlot = none →
      s.reports.link = .flowing → s.reports.resendPoint = none →
      s.reports.queue = sent ++ ⟨r, .unsent⟩ :: later → (∀ x ∈ sent, x.status ≠ .unsent) →
      (∀ x ∈ later, x.status = .unsent) → sent.length < 4 →
      exec .reportFrameBegin s =
        .next { s with
          reports :=
            { s.reports with
              queue := sent ++ ⟨r, .sent s.reports.nextSeq⟩ :: later
              attn := true
              nextSeq := s.reports.nextSeq + 1
              ackTimer := if sent = [] then some ⟨s.clock, s.reports.ackTimeout⟩ else s.reports.ackTimer }
          host :=
            { s.host with
              tx := some ⟨.report, hostFrame 0x82#8 s.reports.nextSeq r.body, s.host.rate, 0⟩ } }) ∧
    (s.reports.link = .stalled ∨
        s.reports.link = .flowing ∧ s.reports.resendPoint = none ∧ 4 ≤ s.reports.sentEntries.length →
      exec .reportFrameBegin s = .next s) ∧
    (∀ f, s.host.tx = some f → f.source = .report → 160000000 * f.bytes.length ≤ f.elapsed * f.rate.bps →
      exec .reportFrameEnd s = .next { s with host := { s.host with tx := none } }) ∧
    (∀ (kind seq : Byte) (body covered : List Byte),
      covered = [natByte (body.length + 2), kind, seq] ++ body →
      hostFrame kind seq body = [0xA7#8] ++ covered ++ halfBytes (crc16 covered)) ∧
    (∀ (cause : ResetCause) (revision : Byte),
      (Report.ready cause revision).body = [0x01#8, cause.code, revision]) ∧
    (∀ (tag : Half) (kind : RequestKind) (result : RequestResult) (attempts : Nat) (last : Option ExOutcome)
        (data : List Byte),
      (Report.result tag kind result attempts last data).body =
        [0x02#8] ++ halfBytes tag ++ [kind.code, result.code, natByte attempts] ++
        (match last with
          | none => [0#8, 0#8, 0#8]
          | some o => [1#8, o.code, o.detailCode]) ++
        [natByte data.length] ++ data) ∧
    (∀ (a : Addr) (length : Nat) (image : List Byte) (merges : Byte),
      (Report.image a length image merges).body =
        [0x03#8, natByte (a.val + 1), natByte length, merges] ++ image) ∧
    (∀ (a : Addr) (fromState toState : StationState) (reason : StationReason) (identity : Option Identity)
        (merges : Byte),
      (Report.station a fromState toState reason identity merges).body =
        [0x04#8, natByte (a.val + 1), fromState.code, toState.code, reason.code] ++
        (match identity with
          | none => [0#8, 0#8, 0#8, 0#8]
          | some i => [1#8] ++ halfBytes i.typeCode ++ [i.revision]) ++
        [merges]) ∧
    (∀ (fromRole toRole : LineRole) (reason : LineReason) (detail : LineDetail) (merges : Byte),
      (Report.line fromRole toRole reason detail merges).body =
        [0x05#8, fromRole.code, toRole.code, reason.code, detail.code, merges])

/-- R147, R148: the ack timer expires against the timeout it started with: a retransmission round from the oldest
SENT entry, or at round count 8 STALLED. -/
def Obligations.AckTimerRetransmitsThenStalls : Prop :=
  ∀ (s : State) (timer : AckTimer), s.held = false → s.reports.ackTimer = some timer →
    timer.timeout ≤ (s.clock - timer.start).toNat → s.reports.fits →
    (s.reports.roundCount < 7 →
      ∃ (e : ReportEntry) (q : Byte), s.reports.sentEntries.head? = some e ∧ e.status = .sent q ∧
        exec .ackTimerExpiry s =
          .next { s with
            reports :=
              { s.reports with
                roundCount := s.reports.roundCount + 1
                resendPoint := some q
                ackTimer := some ⟨s.clock, s.reports.ackTimeout⟩ } }) ∧
    (s.reports.roundCount = 7 →
      exec .ackTimerExpiry s =
        .next { s with
          reports :=
            { s.reports with
              roundCount := 8
              link := .stalled
              resendPoint := none
              ackTimer := none } })

/-! ### Deadlines and the timetable -/

/-- R45, R49, R50, R56, R64: the expiry of a deadline removes a WAITING request with EXPIRED and has no effect on one
that is ON_LINE or REPORTED. A due time the clock has come to becomes reached, and its call can be selected; a
lateness that has come to its largest value sets the saturated mark, in an entry or in an anchor. -/
def Obligations.DeadlinesExpireAndDueTimesAreReached : Prop :=
  ∀ s : State, s.held = false →
    (∀ (removed : State) (r : Request) (n : Nat), s.findRequest r.tag = some r →
      r.deadline = some n → n ≤ (s.clock - r.acceptedAt).toNat →
      removed =
        { s with
          requests := s.requests.map fun q => if q.tag = r.tag then { q with state := .reported } else q
          reports :=
            { s.reports with
              queue := s.reports.queue ++
                [⟨.result r.tag r.kind .expired r.attempts r.lastOutcome [], .unsent⟩]
              attn := true } } →
      (r.state = .waiting →
        exec (.deadlineExpiry r.tag) s =
          .next (if removed.hasEligible r.station then removed.select else removed)) ∧
      (r.state ≠ .waiting → exec (.deadlineExpiry r.tag) s = .next s)) ∧
    (∀ (a : Addr) (d : DueTime), (s.station a).nextDue = some d → d.reached = false →
      (s.clock - d.time).toNat < 2147483648 →
      exec (.dueTimeReached a) s =
        .next (s.setStation a { s.station a with nextDue := some { d with reached := true } }).select) ∧
    (∀ (a : Addr) (d : DueTime), (s.station a).nextDue = some d → d.reached = true →
      2147483647 ≤ (s.clock - d.time).toNat →
      exec (.latenessSaturated (.entry a)) s =
        .next (s.setStation a { s.station a with nextDue := some { d with saturated := true } })) ∧
    (∀ (x : Exchange) (d marked : DueTime) (origin : Origin), s.engine.exchange = some x →
      marked = { d with saturated := true } →
      (x.record.origin = .poll d ∧ origin = .poll marked ∨
        x.record.origin = .recoveryPoll d ∧ origin = .recoveryPoll marked ∨
        x.record.origin = .probe d ∧ origin = .probe marked) →
      d.reached = true → 2147483647 ≤ (s.clock - d.time).toNat →
      exec (.latenessSaturated .anchor) s =
        .next { s with
          engine :=
            { s.engine with exchange := some { x with record := { x.record with origin := origin } } } })

/-! ### The call and its echo -/

/-- R76, R80, R92, R94, R95, R200: in GAP the call starts once the line has been quiet for the gap and no telegram is
being collected, and not before; each character sent ends one character time after the last. The characters of a call,
and the CRC that closes it, byte by byte and shift by shift. -/
def Obligations.CallStartsAfterTheGap : Prop :=
  ∀ (s : State) (x : Exchange) (mayStart : Prop), s.held = false → s.engine.exchange = some x →
    (mayStart ↔ s.engine.charInProgress = false ∧ s.engine.lrxHeld = false ∧
      160000000 * s.engine.params.gap ≤ s.engine.quiet * s.engine.params.rate.bps ∧
      ∀ chars, s.engine.framer ≠ .collecting chars) →
    (x.phase = .gap → mayStart →
      exec .sendStart s =
        .next { s with
          engine := { s.engine with exchange := some { x with phase := .sending 0 0 0 }, lde := true } }) ∧
    (x.phase = .gap → ¬ mayStart → exec .sendStart s = .next s) ∧
    (∀ elapsed ended paired, x.phase = .sending elapsed ended paired → ended < x.record.call.length →
      (160000000 * (ended + 1) ≤ elapsed * s.engine.params.rate.bps →
        exec .callCharacterSent s =
          .next { s with
            engine :=
              { s.engine with exchange := some { x with phase := .sending elapsed (ended + 1) paired } } }) ∧
      (elapsed * s.engine.params.rate.bps < 160000000 * (ended + 1) → exec .callCharacterSent s = .next s)) ∧
    (∀ (r : ExchangeRecord) (kind toggle : Nat) (covered : List Byte),
      (r.kind = .poll ∧ kind = 1 ∨ r.kind = .put ∧ kind = 2 ∨ r.kind = .get ∧ kind = 3 ∨
        r.kind = .hail ∧ kind = 4 ∨ r.kind = .bcast ∧ kind = 5) →
      toggle = (if r.toggleSent = some true then 1 else 0) →
      covered =
        [BitVec.ofNat 8 (16 * kind + toggle),
          match r.station with
          | none => 0#8
          | some a => BitVec.ofNat 8 (a.val + 1),
          BitVec.ofNat 8 r.payload.length] ++ r.payload →
      r.call = covered ++ halfBytes (crc16 covered)) ∧
    (∀ shift : Half → Half, (∀ r, shift r = if r.msb then (r <<< 1) ^^^ 0x1021#16 else r <<< 1) →
      crc16 [] = 0xFFFF#16 ∧
      ∀ (bytes : List Byte) (b : Byte), crc16 (bytes ++ [b]) = shift^[8] (crc16 bytes ^^^ (b ++ 0#8)))

/-- R96, R98, R112, R122: a good echo that comes within 2 character times of the end of its character pairs the next
character; the echo of the last one ends the call: LDE is released, the framer is READY, calls sent is raised and a
BCAST settles while another call awaits its reply. The echo may come before CALL_CHARACTER_SENT of its character, which
counts as sent while it is on LTX (the model's reading, log 6), since that row, like every end of an interval, may be
taken late (the model's choice, log 3). -/
def Obligations.GoodEchoesEndTheCall : Prop :=
  ∀ (s : State) (x : Exchange) (b : Byte) (elapsed ended paired : Nat) (heard : LineEngine), s.held = false →
    s.engine.exchange = some x → x.phase = .sending elapsed ended paired → s.engine.lrxHeld = false →
    x.record.call[paired]? = some b → paired ≤ ended →
    elapsed * s.engine.params.rate.bps ≤ 160000000 * (paired + 3) →
    heard = { s.engine with quiet := 0, charInProgress := false, quietSince := s.clock, quietSaturated := false } →
    (paired + 1 < x.record.call.length →
      exec (.echoReceived ⟨b, .idle⟩) s =
        .next { s with
          engine := { heard with exchange := some { x with phase := .sending elapsed ended (paired + 1) } } }) ∧
    (paired + 1 = x.record.call.length →
      exec (.echoReceived ⟨b, .idle⟩) s =
        .next { s with
          engine :=
            { heard with
              exchange := some { x with phase := if x.record.kind = .bcast then .settle else .await s.clock false }
              lde := false
              framer := .ready
              counters :=
                { s.engine.counters with
                  callsSent :=
                    if s.engine.counters.callsSent = 0xFFFF#16 then 0xFFFF#16
                    else s.engine.counters.callsSent + 1 } } })

/-- R93, R96, R97, R100, R105, R108, R124, R125, R39, R44, R69, R191: an echo fault (a wrong or missing echo, or one
that comes more than 2 character times after the end of its character), or a foreign call heard in GAP, AWAIT or SETTLE,
ends the exchange in COLLISION: LDE is released, contentions is raised, the commitment is undone and the role becomes
YIELDED from MASTER and OFF from STOPPING, with its LINE report. A poll, recovery poll or probe gets its anchor back where
the state of its station still calls for it, and is discarded otherwise. A request within its deadline returns to
WAITING; past its deadline it completes with EXPIRED, as an orphan with CANCELLED, and at a station that has become LOST
meanwhile with STATION_LOST (the model's reading, log 24). A fallback broadcast ends DISTURBED and the role becomes
OFF. -/
def Obligations.ContentionEndsTheExchange : Prop :=
  ∀ (s base : State) (c : Instr) (x : Exchange) (detail : CollisionDetail) (heard : LineEngine)
    (toRole : LineRole) (reason : LineReason) (lineDetail : LineDetail),
    s.held = false → s.engine.exchange = some x →
    ((∃ elapsed ended paired, x.phase = .sending elapsed ended paired ∧ s.engine.lde = true ∧
        detail = .echo ∧ lineDetail = .echo ∧
        (c = .echoTimeout ∧ paired < ended ∧
            160000000 * (paired + 3) ≤ elapsed * s.engine.params.rate.bps ∧
            heard = { s.engine with framer := .skipping } ∨
          ∃ ch, c = .echoReceived ch ∧ s.engine.lrxHeld = false ∧
            (ch.stop ≠ .idle ∨ x.record.call[paired]? ≠ some ch.data ∨ ended < paired ∨
              160000000 * (paired + 3) < elapsed * s.engine.params.rate.bps) ∧
            heard =
              { s.engine with
                quiet := 0
                charInProgress := false
                lrxHeld := ch.stop == .errorHeld
                quietSince := s.clock
                quietSaturated := false
                framer := .skipping })) ∨
      ∃ ch, c = .telegramStart ch ∧ s.engine.lde = false ∧ s.engine.lrxHeld = false ∧ s.engine.framer = .ready ∧
        detail = .foreignCall ∧ lineDetail = .foreignCall ∧
        (x.phase = .settle ∨
          (x.phase = .gap ∨ ∃ since seen, x.phase = .await since seen) ∧ ch.stop = .idle ∧ ch.data.toNat < 128) ∧
        heard =
          { s.engine with
            quiet := 0
            charInProgress := false
            lrxHeld := ch.stop == .errorHeld
            quietSince := s.clock
            quietSaturated := false
            framer := if ch.stop = .idle then .collecting [ch.data] else .skipping }) →
    (s.engine.role = .master ∧ toRole = .yielded ∧ reason = .contention ∨
      s.engine.role = .stopping ∧ toRole = .off ∧ reason = .stopped) →
    base =
      { s with
        engine :=
          { heard with
            role := toRole
            exchange := none
            lde := false
            counters :=
              { s.engine.counters with
                contentions :=
                  if s.engine.counters.contentions = 0xFFFF#16 then 0xFFFF#16
                  else s.engine.counters.contentions + 1 } }
        fallback := { s.fallback with timer := none, pending := false, phase := .none } } →
    (∀ (a : Addr) (anchor : DueTime), x.record.station = some a → x.record.orphaned = false →
      (x.record.origin = .poll anchor ∧ (s.station a).state = .online ∧ 1 ≤ (s.station a).level ∨
        x.record.origin = .recoveryPoll anchor ∧ (s.station a).state = .suspect ∨
        x.record.origin = .probe anchor ∧ ((s.station a).state = .probing ∨ (s.station a).state = .lost)) →
      exec c s =
        .next ((base.setStation a { s.station a with nextDue := some anchor }).putReport
          (.line s.engine.role toRole reason lineDetail 0))) ∧
    (∀ (a : Addr) (anchor : DueTime), x.record.station = some a →
      (x.record.origin = .poll anchor ∧
          (x.record.orphaned = true ∨ (s.station a).state ≠ .online ∨ (s.station a).level = 0) ∨
        x.record.origin = .recoveryPoll anchor ∧ (x.record.orphaned = true ∨ (s.station a).state ≠ .suspect) ∨
        x.record.origin = .probe anchor ∧
          (x.record.orphaned = true ∨ (s.station a).state ≠ .probing ∧ (s.station a).state ≠ .lost)) →
      exec c s = .next (base.putReport (.line s.engine.role toRole reason lineDetail 0))) ∧
    (∀ r : Request, x.record.origin = .request r.tag → s.findRequest r.tag = some r →
      x.record.station = r.station → (s.requests.map fun q => q.tag).Nodup →
      (∀ a, r.station = some a → (s.station a).state = .lost → ∀ q ∈ s.requests, q.tag ≠ r.tag →
        q.state = .waiting → q.station ≠ some a) →
      (x.record.orphaned = false → r.deadlinePassed s.clock = false →
        (∀ a, r.station = some a → (s.station a).state ≠ .lost) →
        exec c s =
          .next (State.putReport (.line s.engine.role toRole reason lineDetail 0)
            { base with
              requests := s.requests.map fun q =>
                if q.tag = r.tag then { q with state := .waiting, lastOutcome := some (.collision detail) }
                else q })) ∧
      (∀ result : RequestResult,
        (x.record.orphaned = true ∧ result = .cancelled ∨
          x.record.orphaned = false ∧ r.deadlinePassed s.clock = true ∧ result = .expired ∨
          x.record.orphaned = false ∧ r.deadlinePassed s.clock = false ∧ result = .stationLost ∧
            ∃ a, r.station = some a ∧ (s.station a).state = .lost) →
        exec c s =
          .next (State.putReport (.line s.engine.role toRole reason lineDetail 0)
            { base with
              requests := s.requests.map fun q =>
                if q.tag = r.tag then { q with state := .reported, lastOutcome := some (.collision detail) }
                else q
              reports :=
                { s.reports with
                  queue := s.reports.queue ++
                    [⟨.result r.tag r.kind result r.attempts (some (.collision detail)) [], .unsent⟩]
                  attn := true } }))) ∧
    (x.record.origin = .fallback →
      exec c s =
        .next (State.putReport (.line s.engine.role .off .fallback .disturbed 0)
          { base with engine := { base.engine with role := .off } }))

/-! ### How an exchange completes -/

/-- R99, R106, R107, R112, R120, R190, R18, R20, R21, R23, R42, R44: no start bit within the reply timeout is NO_REPLY,
and the exchange completes with it. The miss of a poll or recovery poll that stays below the miss limit leaves its
station SUSPECT with a recovery poll due at once, that of a probe has the next probe due after the probe interval; a
request returns to WAITING or gets its final result before its station counts the miss; an orphan touches no station.
What then follows: in MASTER a selection, with fallback pending the fallback broadcast or its end OMITTED, and in STOPPING
the role OFF. A start bit keeps the exchange in AWAIT. -/
def Obligations.ReplyTimeoutIsAMiss : Prop :=
  ∀ (s closed : State) (x : Exchange) (since : Clock) (seen : Bool) (done : State → State) (raised : Half → Half)
    (ended : Fallback), s.held = false → s.engine.exchange = some x → x.phase = .await since seen →
    (raised = fun c => if c = 0xFFFF#16 then 0xFFFF#16 else c + 1) →
    closed =
      { s with
        engine :=
          { s.engine with
            exchange := none
            lde := false
            counters := { s.engine.counters with misses := raised s.engine.counters.misses } } } →
    ended = { s.fallback with timer := none, pending := false, phase := .none } →
    (s.engine.role = .master ∧ s.fallback.pending = false ∧ done = State.select ∨
      s.engine.role = .master ∧ s.fallback.pending = true ∧
        (∃ payload, s.fallback.payload = some payload ∧
          done = fun u =>
            { u with
              engine := LineEngine.tryStart
                { u.engine with
                  exchange := some
                    { record :=
                        { origin := .fallback, station := none, kind := .bcast, payload := payload,
                          toggleSent := none, imageLength := none, orphaned := false }
                      phase := .gap } }
              fallback := { u.fallback with phase := .broadcast } }) ∨
      s.engine.role = .master ∧ s.fallback.pending = true ∧ s.fallback.payload = none ∧
        (done = fun u =>
          State.putReport (.line .master .off .fallback .omitted 0)
            { u with engine := { u.engine with role := .off }, fallback := ended }) ∨
      s.engine.role = .stopping ∧
        (done = fun u =>
          State.putReport (.line .stopping .off .stopped .none 0)
            { u with engine := { u.engine with role := .off }, fallback := ended })) →
    (seen = true ∨ (s.clock - since).toNat < s.engine.params.replyTimeout → exec .replyTimeout s = .next s) ∧
    (seen = false → s.engine.params.replyTimeout ≤ (s.clock - since).toNat →
      (∃ t, exec .replyTimeout s = .next t ∧ s.CompletesTo x .noReply [] t) ∧
      (∀ anchor, x.record.orphaned = true →
        (x.record.origin = .poll anchor ∨ x.record.origin = .recoveryPoll anchor ∨ x.record.origin = .probe anchor) →
        exec .replyTimeout s = .next (done closed)) ∧
      (∀ (a : Addr) (e : Station) (anchor : DueTime), x.record.orphaned = false → x.record.station = some a →
        e = s.station a →
        (∀ misses : Nat, x.record.kind = .poll →
          (x.record.origin = .poll anchor ∨ x.record.origin = .recoveryPoll anchor) →
          (e.state = .online ∧ misses = 1 ∨ e.state = .suspect ∧ misses = e.missCount + 1) → misses < e.missLimit →
          exec .replyTimeout s =
            .next (done (closed.setStation a
              { e with
                state := .suspect
                missCount := misses
                nextDue := some ⟨s.clock, true, false⟩
                missedExchanges := raised e.missedExchanges
                lastFault := some ⟨.noReply, .poll, s.clock⟩ }))) ∧
        (x.record.kind = .hail → x.record.origin = .probe anchor → (e.state = .probing ∨ e.state = .lost) →
          exec .replyTimeout s =
            .next (done (closed.setStation a
              { e with
                nextDue := some ⟨s.clock + BitVec.ofNat 32 s.engine.params.probeInterval, false, false⟩
                probeMisses := raised e.probeMisses
                lastFault := some ⟨.noReply, .hail, s.clock⟩ })))) ∧
      (∀ (r : Request) (result : Option RequestResult) (decided : State), x.record.origin = .request r.tag →
        s.findRequest r.tag = some r →
        decided =
          { closed with
            requests := s.requests.map fun q =>
              if q.tag = r.tag then
                { q with
                  attempts := q.attempts + 1
                  lastOutcome := some .noReply
                  state := if result = none then .waiting else .reported }
              else q
            reports :=
              match result with
              | none => s.reports
              | some final =>
                { s.reports with
                  queue := s.reports.queue ++
                    [⟨.result r.tag r.kind final (r.attempts + 1) (some .noReply) [], .unsent⟩]
                  attn := true } } →
        result =
          (if x.record.orphaned = true ∨ r.allowance < r.attempts + 1 then some .failed
            else if r.deadlinePassed s.clock = true then some .expired
            else none) →
        (x.record.orphaned = true → exec .replyTimeout s = .next (done decided)) ∧
        (∀ (a : Addr) (e : Station) (misses : Nat), x.record.orphaned = false → x.record.station = some a →
          e = s.station a → (x.record.kind = .put ∨ x.record.kind = .get) →
          (e.state = .online ∧ misses = 1 ∨ e.state = .suspect ∧ misses = e.missCount + 1) → misses < e.missLimit →
          exec .replyTimeout s =
            .next (done (decided.setStation a
              { e with
                state := .suspect
                missCount := misses
                nextDue := some ⟨s.clock, true, false⟩
                missedExchanges := raised e.missedExchanges
                lastFault := some ⟨.noReply, x.record.kind, s.clock⟩ })))))

/-- R18, R20, R21, R22, R36, R49: a miss of a POLL, PUT or GET at an ONLINE or SUSPECT station raises missed exchanges
and is kept as the last fault; below the miss limit it leaves the station SUSPECT, and the miss that brings the miss
count to the miss limit makes the station LOST: what becomes of its entry, its STATION report, and the requests waiting
for it, which complete with STATION_LOST in acceptance order. -/
def Obligations.MissesLoseTheStation : Prop :=
  (∀ (s : State) (a : Addr) (d : Delivery) (e : Station) (misses : Nat), e = s.station a →
    (d.record.kind = .poll ∨ d.record.kind = .put ∨ d.record.kind = .get) →
    (d.outcome = .noReply ∨ d.outcome = .wrongSource ∨ d.outcome = .stale ∨ ∃ detail, d.outcome = .garbled detail) →
    (e.state = .online ∧ misses = 1 ∨ e.state = .suspect ∧ misses = e.missCount + 1) →
    s.applyOutcome a d =
      State.missed a
        (s.setStation a
          { e with
            missedExchanges := if e.missedExchanges = 0xFFFF#16 then 0xFFFF#16 else e.missedExchanges + 1
            lastFault := some ⟨d.outcome, d.record.kind, s.clock⟩ }) ∧
    (misses < e.missLimit →
      s.missed a =
        s.setStation a
          { e with state := .suspect, missCount := misses, nextDue := some ⟨s.clock, true, false⟩ })) ∧
  ∀ (s : State) (a : Addr) (e : Station), e = s.station a → (s.requests.map fun r => r.tag).Nodup →
    (e.state = .online ∧ e.missLimit ≤ 1 ∨ e.state = .suspect ∧ e.missLimit ≤ e.missCount + 1) →
    ∃ t, s.missed a = t ∧
      t.station a =
        { e with
          state := .lost
          missCount := e.missLimit
          reportedImage := none
          nextDue := some ⟨s.clock + BitVec.ofNat 32 s.engine.params.probeInterval, false, false⟩ } ∧
      (∀ b, b ≠ a → t.station b = s.station b) ∧
      t.requests = (s.requests.map fun r =>
        if r.state = .waiting ∧ r.station = some a then { r with state := .reported } else r) ∧
      t.reports.queue =
        placeReport (.station a e.state .lost .misses none 0) s.reports.queue ++
          ((s.requests.filter fun r => r.state == .waiting && r.station == some a).map fun r =>
            ⟨.result r.tag r.kind .stationLost r.attempts r.lastOutcome [], .unsent⟩) ∧
      t.engine = s.engine ∧ t.host = s.host ∧ t.unit = s.unit ∧ t.fallback = s.fallback ∧ t.clock = s.clock

/-- R101, R102, R103, R104: the CRC low character completes the telegram: the framer goes to SKIPPING, and a reply is
classified by the six checks in their order; the exchange completes with the outcome of the first that fails. How it
completes (`CompletesTo`: R106, R107, R112, R14, R111, R120, R190, R192): it is over and counted as a good reply or a
miss; the Call Queue decides the request; the Station Table applies the outcome, but for an orphan; and then comes what
the role and the fallback demand. -/
def Obligations.RepliesAreClassifiedInOrder : Prop :=
  (∀ (s : State) (x : Exchange) (outcome : ExOutcome) (data : List Byte), s.engine.exchange = some x →
    s.CompletesTo x outcome data (s.completeExchange outcome data)) ∧
  ∀ (s base : State) (x : Exchange) (header source length hi lo : Byte) (payload : List Byte)
    (reply : Option ReplyKind) (accepted : Prop), s.held = false → s.engine.exchange = some x →
    x.phase = .receiving → s.engine.lde = false → s.engine.lrxHeld = false →
    s.engine.framer = .collecting (header :: source :: length :: payload ++ [hi]) →
    payload.length = length.toNat → length.toNat ≤ 32 →
    reply = [none, some ReplyKind.data, some .ack, some .nak, some .ident][header.toNat / 16 % 8]?.join →
    (accepted ↔
      (x.record.kind = .poll ∨ x.record.kind = .get) ∧
          (reply = some .data ∨ reply = some .nak ∧ length = 1#8) ∨
        x.record.kind = .put ∧ (reply = some .ack ∧ length = 0#8 ∨ reply = some .nak ∧ length = 1#8) ∨
        x.record.kind = .hail ∧ (reply = some .ident ∧ length = 3#8 ∨ reply = some .nak ∧ length = 1#8)) →
    base =
      { s with
        engine :=
          { s.engine with
            quiet := 0
            charInProgress := false
            quietSince := s.clock
            quietSaturated := false
            framer := .skipping } } →
    (crc16 (header :: source :: length :: payload) ≠ hi ++ lo →
      exec (.telegramComplete lo) s = .next (base.completeExchange (.garbled .crc) [])) ∧
    (crc16 (header :: source :: length :: payload) = hi ++ lo →
      (source ≠ destByte x.record.station →
        exec (.telegramComplete lo) s = .next (base.completeExchange .wrongSource [])) ∧
      (source = destByte x.record.station →
        (¬ accepted → exec (.telegramComplete lo) s = .next (base.completeExchange (.garbled .wrongKind) [])) ∧
        (accepted →
          (x.record.kind = .put → x.record.toggleSent ≠ some (header.toNat % 2 == 1) →
            exec (.telegramComplete lo) s = .next (base.completeExchange .stale [])) ∧
          (x.record.kind = .poll → reply = some .data → x.record.imageLength ≠ some length.toNat →
            exec (.telegramComplete lo) s = .next (base.completeExchange (.garbled .badLength) [])) ∧
          ((x.record.kind = .put → x.record.toggleSent = some (header.toNat % 2 == 1)) →
            (x.record.kind = .poll → reply = some .data → x.record.imageLength = some length.toNat) →
            (∀ reason, reply = some .nak → payload = [reason] →
              exec (.telegramComplete lo) s = .next (base.completeExchange (.refused reason) [])) ∧
            (reply ≠ some .nak →
              exec (.telegramComplete lo) s = .next (base.completeExchange .good payload))))))

/-- R40 to R44, R49, R50, R18, R20, R21, R28: the fate of the request an exchange served, from its outcome: a final
result with its RESULT report, which carries the reply data of a GET that is DONE, or the return to WAITING. At an
ONLINE or SUSPECT station a GOOD or REFUSED PUT or GET is a good exchange and leaves it ONLINE; a PUT's turns the
toggle; a recovery poll that was due is kept as the next poll, or removed at level 0. At a station that has become LOST
while the call was on the line only the counters, the last fault and the toggle change (R24), and every request that then
waits for it, the one just returned among them, completes with STATION_LOST. -/
def Obligations.OutcomeDecidesTheRequest : Prop :=
  ∀ (s : State) (r : Request) (d : Delivery) (fate : Option RequestResult), s.findRequest r.tag = some r →
    (∀ detail, d.outcome ≠ .collision detail) →
    fate =
      (match d.outcome with
        | .good => some .done
        | .refused _ => some .refused
        | .sent => some .sent
        | _ =>
          if d.record.orphaned = true ∨ r.allowance < r.attempts + 1 then some .failed
          else if r.deadlinePassed s.clock = true then some .expired
          else none) →
    (fate = none →
      s.decideRequest r.tag d =
        { s with
          requests := s.requests.map fun q =>
            if q.tag = r.tag then
              { q with attempts := q.attempts + 1, lastOutcome := some d.outcome, state := .waiting }
            else q }) ∧
    (∀ result, fate = some result →
      s.decideRequest r.tag d =
        { s with
          requests := s.requests.map fun q =>
            if q.tag = r.tag then
              { q with attempts := q.attempts + 1, lastOutcome := some d.outcome, state := .reported }
            else q
          reports :=
            { s.reports with
              queue := s.reports.queue ++
                [⟨.result r.tag r.kind result (r.attempts + 1) (some d.outcome)
                  (if result = .done ∧ r.kind = .get then d.data else []), .unsent⟩]
              attn := true } }) ∧
    (∀ (a : Addr) (e : Station), d.record.origin = .request r.tag →
      (d.record.kind = .put ∨ d.record.kind = .get) →
      (d.outcome = .good ∨ ∃ reason, d.outcome = .refused reason) → e = s.station a →
      (e.state = .online ∨ e.state = .suspect) →
      s.applyOutcome a d =
        s.setStation a
          { e with
            state := .online
            missCount := 0
            goodExchanges := if e.goodExchanges = 0xFFFF#16 then 0xFFFF#16 else e.goodExchanges + 1
            toggle := if d.record.kind = .put then !e.toggle else e.toggle
            nextDue := if e.state = .suspect ∧ e.level = 0 then none else e.nextDue }) ∧
    (∀ (a : Addr) (e counted : Station), (s.requests.map fun q => q.tag).Nodup →
      (d.record.kind = .poll ∨ d.record.kind = .put ∨ d.record.kind = .get) → e = s.station a → e.state = .lost →
      ((d.outcome = .good ∨ ∃ reason, d.outcome = .refused reason) ∧
          counted =
            { e with
              goodExchanges := if e.goodExchanges = 0xFFFF#16 then 0xFFFF#16 else e.goodExchanges + 1
              toggle := if d.record.kind = .put then !e.toggle else e.toggle } ∨
        (d.outcome = .noReply ∨ d.outcome = .wrongSource ∨ d.outcome = .stale ∨
            ∃ detail, d.outcome = .garbled detail) ∧
          counted =
            { e with
              missedExchanges := if e.missedExchanges = 0xFFFF#16 then 0xFFFF#16 else e.missedExchanges + 1
              lastFault := some ⟨d.outcome, d.record.kind, s.clock⟩ }) →
      s.applyOutcome a d =
        { s.setStation a counted with
          requests := s.requests.map fun q =>
            if q.state = .waiting ∧ q.station = some a then { q with state := .reported } else q
          reports :=
            { s.reports with
              queue := s.reports.queue ++
                ((s.requests.filter fun q => q.state == .waiting && q.station == some a).map fun q =>
                  ⟨.result q.tag q.kind .stationLost q.attempts q.lastOutcome [], .unsent⟩)
              attn :=
                s.reports.attn || s.requests.any fun q => q.state == .waiting && q.station == some a } })

/-- R9, R18, R20, R21, R26, R27, R58, R59: an answer to a poll of an ONLINE station or to a recovery poll of a SUSPECT one:
ONLINE with miss count 0, good exchanges raised, and at level 1 to 7 the next poll on the grid of the anchor with an
overrun for each grid point passed over; where the lateness of the anchor is full, one period after now, with the
overruns R58 gives. A REFUSED poll does no more, nor does a GOOD one whose recorded image length is no longer the entry's;
otherwise a GOOD poll stores the image, and by the report mode brings an IMAGE report with the reported image. -/
def Obligations.GoodPollUpdatesTheEntry : Prop :=
  ∀ (s : State) (a : Addr) (d : Delivery) (anchor : DueTime) (e polled : Station) (k late : Nat)
    (full reports : Prop) (next : Option DueTime) (overruns : Half) (raised : Half → Nat → Half),
    d.record.kind = .poll →
    (d.record.origin = .poll anchor ∨ d.record.origin = .recoveryPoll anchor) → e = s.station a →
    (e.state = .online ∨ e.state = .suspect) → 0 < e.period → late = (s.clock - anchor.time).toNat →
    (full ↔ anchor.saturated = true ∨ 2147483647 ≤ late) → anchor.reached = true →
    (1 ≤ k ∧ late < k * e.period ∧ (k - 1) * e.period ≤ late) →
    (raised = fun c n => if 65535 < c.toNat + n then 0xFFFF#16 else BitVec.ofNat 16 (c.toNat + n)) →
    (e.level = 0 → next = none ∧ overruns = e.pollOverruns) →
    (e.level ≠ 0 → ¬ full →
      next = some ⟨anchor.time + BitVec.ofNat 32 (k * e.period), false, false⟩ ∧
        overruns = raised e.pollOverruns (k - 1)) →
    (e.level ≠ 0 → full →
      next = some ⟨s.clock + BitVec.ofNat 32 e.period, false, false⟩ ∧
        overruns = raised e.pollOverruns (2147483647 / e.period)) →
    (reports ↔
      e.reportMode = .every ∨
        e.reportMode = .changes ∧
          (e.reportedImage = none ∨
            ∃ old, e.reportedImage = some old ∧ ∃ (i : Nat) (m p q : Byte),
              e.watchMask[i]? = some m ∧ old[i]? = some p ∧ d.data[i]? = some q ∧ p &&& m ≠ q &&& m)) →
    polled =
      { e with
        state := .online
        missCount := 0
        goodExchanges := if e.goodExchanges = 0xFFFF#16 then 0xFFFF#16 else e.goodExchanges + 1
        nextDue := next
        pollOverruns := overruns } →
    ((∃ reason, d.outcome = .refused reason) ∨
        d.outcome = .good ∧ d.record.imageLength ≠ some e.imageLength →
      s.applyOutcome a d = s.setStation a polled) ∧
    (d.outcome = .good → d.record.imageLength = some e.imageLength → reports →
      s.applyOutcome a d =
        (s.setStation a { polled with image := some d.data, reportedImage := some d.data }).putReport
          (.image a e.imageLength d.data 0)) ∧
    (d.outcome = .good → d.record.imageLength = some e.imageLength → ¬ reports →
      s.applyOutcome a d = s.setStation a { polled with image := some d.data })

/-- R2, R18, R19, R23, R28, R57, R104: the outcome of a HAIL at a PROBING or LOST station. A unit of the identity
that must match, or of any where none must, is found or has returned; another makes the station PARKED; a miss or a
NAK counts as a probe miss and the next probe is due after the probe interval. -/
def Obligations.HailDecidesTheIdentity : Prop :=
  ∀ (s : State) (a : Addr) (d : Delivery) (e : Station) (must : Option Identity) (reason : StationReason),
    d.record.kind = .hail → e = s.station a →
    (e.state = .probing ∧ must = e.expected ∧ reason = .found ∨
      e.state = .lost ∧ must = (if e.expected = none then e.identity else e.expected) ∧ reason = .returned) →
    (∀ (hi lo revision : Byte) (identity : Identity), d.outcome = .good → d.data = [hi, lo, revision] →
      identity = ⟨hi ++ lo, revision⟩ →
      (must = none ∨ must = some identity →
        s.applyOutcome a d =
          (s.setStation a
            { e with
              state := .online
              identity := some identity
              missCount := 0
              toggle := false
              nextDue := if e.level = 0 then none else some ⟨s.clock, true, false⟩ }).putReport
            (.station a e.state .online reason (some identity) 0)) ∧
      (must ≠ none → must ≠ some identity →
        s.applyOutcome a d =
          (s.setStation a
            { e with state := .parked, identity := some identity, missCount := 0, nextDue := none }).putReport
            (.station a e.state .parked .identityMismatch (some identity) 0))) ∧
    (d.outcome ≠ .good →
      s.applyOutcome a d =
        s.setStation a
          { e with
            nextDue := some ⟨s.clock + BitVec.ofNat 32 s.engine.params.probeInterval, false, false⟩
            probeMisses := if e.probeMisses = 0xFFFF#16 then 0xFFFF#16 else e.probeMisses + 1
            lastFault :=
              if d.outcome.isMiss then some ⟨d.outcome, .hail, s.clock⟩ else e.lastFault })

/-! ### The telegram framer and the quiet line -/

/-- R82, R93, R100, R101, R106, R107, R112, R123, R124: what the first character of a telegram does to the framer, and to
an exchange in AWAIT, which a framing error completes, or to a MASTER that is IDLE. -/
def Obligations.TelegramStartIsJudged : Prop :=
  ∀ (s : State) (ch : RxChar) (heard : LineEngine), s.held = false → s.engine.lde = false →
    s.engine.lrxHeld = false → s.engine.framer = .ready →
    heard =
      { s.engine with
        quiet := 0
        charInProgress := false
        lrxHeld := ch.stop == .errorHeld
        quietSince := s.clock
        quietSaturated := false
        framer := if ch.stop = .idle then .collecting [ch.data] else .skipping } →
    (∀ (x : Exchange) (since : Clock) (seen : Bool), s.engine.exchange = some x → x.phase = .await since seen →
      (ch.stop = .idle → 128 ≤ ch.data.toNat →
        exec (.telegramStart ch) s =
          .next { s with engine := { heard with exchange := some { x with phase := .receiving } } }) ∧
      (ch.stop ≠ .idle →
        ∃ t, exec (.telegramStart ch) s = .next t ∧
          State.CompletesTo { s with engine := heard } x (.garbled .framing) [] t)) ∧
    (∀ x : Exchange, s.engine.exchange = some x → x.phase = .gap → ch.stop ≠ .idle ∨ 128 ≤ ch.data.toNat →
      exec (.telegramStart ch) s = .next { s with engine := heard }) ∧
    (s.engine.exchange = none → s.engine.role ≠ .master ∨ ch.stop ≠ .idle ∨ 128 ≤ ch.data.toNat →
      exec (.telegramStart ch) s = .next { s with engine := heard }) ∧
    (s.engine.exchange = none → s.engine.role = .master → ch.stop = .idle → ch.data.toNat < 128 →
      exec (.telegramStart ch) s =
        .next (State.putReport (.line .master .yielded .contention .foreignCall 0)
          { s with
            engine :=
              { heard with
                role := .yielded
                counters :=
                  { s.engine.counters with
                    contentions :=
                      if s.engine.counters.contentions = 0xFFFF#16 then 0xFFFF#16
                      else s.engine.counters.contentions + 1 } }
            fallback := { s.fallback with timer := none, pending := false, phase := .none } }))

/-- R74, R75, R81, R83, R99, R122: the framer's later characters, its return to READY, and the start and end of quiet;
nothing else of the device changes at any of them. -/
def Obligations.FramerAndQuietFollowTheLine : Prop :=
  ∀ (s : State) (heard : LineEngine), s.held = false →
    heard = { s.engine with quiet := 0, charInProgress := false, quietSince := s.clock, quietSaturated := false } →
    (∀ (b : Byte) (chars : List Byte), s.engine.lde = false → s.engine.lrxHeld = false →
      s.engine.framer = .collecting chars → (chars.length = 2 → b.toNat ≤ 32) →
      (∀ p q l rest, chars = p :: q :: l :: rest → rest.length ≠ l.toNat + 1) →
      exec (.telegramCharacter b) s =
        .next { s with engine := { heard with framer := .collecting (chars ++ [b]) } }) ∧
    (∀ ch : RxChar, s.engine.lde = false → s.engine.lrxHeld = false → s.engine.framer = .skipping →
      exec (.trailingCharacter ch) s =
        .next { s with engine := { heard with lrxHeld := ch.stop == .errorHeld } }) ∧
    (s.engine.lde = false → s.engine.lrxHeld = false → s.engine.framer = .skipping →
      s.engine.charInProgress = false →
      160000000 * s.engine.params.gap ≤ s.engine.quiet * s.engine.params.rate.bps →
      exec .framerGapReached s = .next { s with engine := { s.engine with framer := .ready } }) ∧
    (s.engine.lrxHeld = true →
      exec .lrxIdleReturn s =
        .next { s with
          engine :=
            { s.engine with lrxHeld := false, quiet := 0, quietSince := s.clock, quietSaturated := false } }) ∧
    (s.engine.charInProgress = false → s.engine.lrxHeld = false →
      exec .startBitConfirmed s =
        .next { s with
          engine :=
            { s.engine with
              charInProgress := true
              exchange := s.engine.exchange.map fun x =>
                { x with phase :=
                    match x.phase with
                    | .await since _ => .await since true
                    | other => other } } }) ∧
    (s.engine.charInProgress = false → s.engine.lrxHeld = false →
      65535 ≤ (s.clock - s.engine.quietSince).toNat →
      exec .lineQuietSaturated s = .next { s with engine := { s.engine with quietSaturated := true } })

/-- R81, R83, R101, R106, R107, R112: a framing error, a length of 33 or more or a pause of more than 2 character times inside a
telegram sends the framer to SKIPPING (to READY where the pause has already reached the gap, the model's reading,
log 10); an exchange that is RECEIVING completes with GARBLED and the detail of the fault. -/
def Obligations.TelegramFaultsGarbleTheReply : Prop :=
  ∀ (s base : State) (c : Instr) (chars : List Byte) (detail : GarbledDetail), s.held = false →
    s.engine.lde = false → s.engine.lrxHeld = false → s.engine.framer = .collecting chars →
    ((∃ ch, c = .telegramFault ch ∧
        (ch.stop ≠ .idle ∧ detail = .framing ∨
          ch.stop = .idle ∧ chars.length = 2 ∧ 33 ≤ ch.data.toNat ∧ detail = .badLength) ∧
        base =
          { s with
            engine :=
              { s.engine with
                quiet := 0
                charInProgress := false
                lrxHeld := ch.stop == .errorHeld
                quietSince := s.clock
                quietSaturated := false
                framer := .skipping } }) ∨
      (c = .telegramPauseTimeout ∧ s.engine.charInProgress = false ∧
        320000000 < s.engine.quiet * s.engine.params.rate.bps ∧ detail = .broken ∧
        base =
          { s with
            engine :=
              { s.engine with
                framer :=
                  if 160000000 * s.engine.params.gap ≤ s.engine.quiet * s.engine.params.rate.bps then .ready
                  else .skipping } })) →
    (∀ x, s.engine.exchange = some x → x.phase = .receiving →
      ∃ t, exec c s = .next t ∧ base.CompletesTo x (.garbled detail) [] t) ∧
    ((∀ x, s.engine.exchange = some x → x.phase ≠ .receiving) → exec c s = .next base)

/-! ### Broadcasts and the fallback -/

/-- R105, R106, R41, R49, R50, R192: one gap of quiet after a BCAST it is SENT. A broadcast request then completes
with result SENT and in MASTER a selection follows; the fallback broadcast ends the fallback with the role OFF. -/
def Obligations.BroadcastsSettleAsSent : Prop :=
  ∀ (s base : State) (x : Exchange), s.held = false → s.engine.exchange = some x → x.phase = .settle →
    x.record.station = none → s.engine.charInProgress = false → s.engine.lrxHeld = false →
    160000000 * s.engine.params.gap ≤ s.engine.quiet * s.engine.params.rate.bps →
    base = { s with engine := { s.engine with exchange := none, lde := false } } →
    (∀ r : Request, x.record.origin = .request r.tag → s.findRequest r.tag = some r →
      s.engine.role = .master → s.fallback.pending = false →
      exec .broadcastSettled s =
        .next (State.select
          { base with
            requests := s.requests.map fun q =>
              if q.tag = r.tag then
                { q with attempts := q.attempts + 1, lastOutcome := some .sent, state := .reported }
              else q
            reports :=
              { s.reports with
                queue := s.reports.queue ++
                  [⟨.result r.tag r.kind .sent (r.attempts + 1) (some .sent) [], .unsent⟩]
                attn := true } })) ∧
    (x.record.origin = .fallback → (s.engine.role = .master ∨ s.engine.role = .stopping) →
      exec .broadcastSettled s =
        .next (State.putReport (.line s.engine.role .off .fallback .sent 0)
          { base with
            engine := { base.engine with role := .off }
            fallback := { s.fallback with timer := none, pending := false, phase := .none } }))

/-- R189, R190, R191, R192: the silence timer expires in MASTER: fallback becomes pending and waits for an exchange in
progress; with the Line Engine IDLE the fallback broadcast is committed, or, with no payload, the fallback ends
OMITTED with the role OFF. Before the limit nothing happens. -/
def Obligations.SilenceBringsTheFallback : Prop :=
  ∀ (s : State) (start : Clock), s.held = false → s.fallback.timer = some start → s.engine.role = .master →
    ((s.clock - start).toNat < s.fallback.limit → exec .silenceTimerExpiry s = .next s) ∧
    (s.fallback.limit ≤ (s.clock - start).toNat →
      (s.engine.exchange ≠ none →
        exec .silenceTimerExpiry s =
          .next { s with
            fallback := { s.fallback with timer := none, pending := true, phase := .awaitingExchange } }) ∧
      (∀ payload, s.engine.exchange = none → s.fallback.payload = some payload →
        exec .silenceTimerExpiry s =
          .next { s with
            engine := LineEngine.tryStart
              { s.engine with
                exchange := some
                  { record :=
                      { origin := .fallback, station := none, kind := .bcast, payload := payload,
                        toggleSent := none, imageLength := none, orphaned := false }
                    phase := .gap } }
            fallback := { s.fallback with timer := none, pending := true, phase := .broadcast } }) ∧
      (s.engine.exchange = none → s.fallback.payload = none →
        exec .silenceTimerExpiry s =
          .next (State.putReport (.line .master .off .fallback .omitted 0)
            { s with
              engine := { s.engine with role := .off }
              fallback := { s.fallback with timer := none, pending := false, phase := .none } })))

/-! ### Scheduling -/

/-- R37, R56, R61: the candidates: each request that is WAITING with no earlier request for its station in the Call
Queue, in acceptance order, and then, by address, each station whose due time is reached in a state that calls for a
poll, recovery poll or probe. A due time is reached once its event has been taken or the clock is past it (the
model's reading of the millisecond itself, log 8). -/
def Obligations.CandidatesAreEligibleRequestsAndReachedDueTimes : Prop :=
  ∀ s : State,
    (∀ r, .request r ∈ s.candidates ↔
      ∃ earlier later, s.requests = earlier ++ r :: later ∧ r.state = .waiting ∧
        ∀ q ∈ earlier, q.station = r.station → q.state = .reported) ∧
    (∀ call a d, .due call a d ∈ s.candidates ↔
      (s.station a).nextDue = some d ∧
        (d.reached = true ∨ d.saturated = true ∨
          0 < (s.clock - d.time).toNat ∧ (s.clock - d.time).toNat < 2147483648) ∧
        (call = .poll ∧ (s.station a).state = .online ∧ 1 ≤ (s.station a).level ∨
          call = .recoveryPoll ∧ (s.station a).state = .suspect ∨
          call = .probe ∧ ((s.station a).state = .probing ∨ (s.station a).state = .lost))) ∧
    ∃ (requests : List Request) (stations : List (DueCall × Addr × DueTime)),
      s.candidates = requests.map .request ++ stations.map (fun x => .due x.1 x.2.1 x.2.2) ∧
        requests.Sublist s.requests ∧ stations.Pairwise (fun x y => x.2.1 < y.2.1)

/-- R56, R62, R63, R64, R66: a selection commits the candidate of the highest value; a tie goes by class, then by
lateness, and then to the one that stands first, in acceptance or address order. Without the three conditions, or
without a candidate, nothing changes. The lateness of a due time is 0 until it is reached (the due millisecond itself:
the model's reading, log 8), then the difference of the clock, at most 2,147,483,647, where the saturated mark holds it
(log 18). -/
def Obligations.SelectionCommitsTheBestCandidate : Prop :=
  ∀ (s : State) (better : Candidate → Candidate → Prop),
    (better = fun c b =>
      s.value b < s.value c ∨
        s.value b = s.value c ∧
          (b.classRank < c.classRank ∨
            b.classRank = c.classRank ∧ b.lateness s.clock < c.lateness s.clock)) →
    (∀ (d : DueTime) (now : Clock) (late : Nat), late = (now - d.time).toNat →
      (d.saturated = true → d.lateness now = 2147483647) ∧
      (d.saturated = false → d.reached = true ∨ 0 < late ∧ late < 2147483648 →
        d.lateness now = min 2147483647 late) ∧
      (d.saturated = false → d.reached = false → late = 0 ∨ 2147483648 ≤ late → d.lateness now = 0)) ∧
    (∀ r, s.value (.request r) = r.urgency ∧ Candidate.classRank (.request r) = 2) ∧
    (∀ a d, s.value (.due .poll a d) =
        min 7 ((s.station a).level + d.lateness s.clock / (s.station a).period) ∧
      s.value (.due .recoveryPoll a d) =
        min 7 (max (s.station a).level 1 + d.lateness s.clock / (s.station a).period) ∧
      s.value (.due .probe a d) = 1 ∧ Candidate.classRank (.due .poll a d) = 1 ∧
      Candidate.classRank (.due .recoveryPoll a d) = 1 ∧ Candidate.classRank (.due .probe a d) = 0) ∧
    (s.engine.exchange ≠ none ∨ s.engine.role ≠ .master ∨ s.fallback.pending = true ∨ s.candidates = [] →
      s.select = s) ∧
    (s.engine.exchange = none → s.engine.role = .master → s.fallback.pending = false → s.candidates ≠ [] →
      ∃ before c after, s.candidates = before ++ c :: after ∧ s.select = s.commit c ∧
        (∀ b ∈ before, better c b) ∧ ∀ b ∈ after, ¬ better b c)

/-- R29, R38, R67, R91, R92: the commitment of a request, which becomes ON_LINE, and of a poll, recovery poll or
probe, whose due time leaves the entry and becomes the anchor: the exchange record, and the exchange in GAP, or in
SENDING with LDE asserted where the line already allows the call. -/
def Obligations.CommitmentFormsTheExchange : Prop :=
  ∀ (s : State) (starts : Bool) (phase : Phase), starts = s.engine.maySend →
    phase = (if starts then .sending 0 0 0 else .gap) →
    (∀ (r : Request) (kind : CallKind),
      (r.kind = .put ∧ kind = .put ∨ r.kind = .get ∧ kind = .get ∨ r.kind = .broadcast ∧ kind = .bcast) →
      s.commit (.request r) =
        { s with
          requests := s.requests.map fun q => if q.tag = r.tag then { q with state := .onLine } else q
          engine :=
            { s.engine with
              lde := if starts then true else s.engine.lde
              exchange := some
                { record :=
                    { origin := .request r.tag
                      station := r.station
                      kind := kind
                      payload := r.payload
                      toggleSent := if r.kind = .put then r.station.map fun a => (s.station a).toggle else none
                      imageLength := none
                      orphaned := false }
                  phase := phase } } }) ∧
    (∀ (call : DueCall) (a : Addr) (d : DueTime) (origin : Origin) (kind : CallKind),
      (call = .poll ∧ origin = .poll d ∧ kind = .poll ∨
        call = .recoveryPoll ∧ origin = .recoveryPoll d ∧ kind = .poll ∨
        call = .probe ∧ origin = .probe d ∧ kind = .hail) →
      s.commit (.due call a d) =
        State.setStation a { s.station a with nextDue := none }
          { s with
            engine :=
              { s.engine with
                lde := if starts then true else s.engine.lde
                exchange := some
                  { record :=
                      { origin := origin
                        station := some a
                        kind := kind
                        payload := []
                        toggleSent := none
                        imageLength := if kind = .poll then some (s.station a).imageLength else none
                        orphaned := false }
                    phase := phase } } })

/-! ### Placing reports -/

/-- R136 to R140, R131, R132, R151: a report handed over merges into the UNSENT report of its kind and subject, in
place and keeping what that report says of the past, with its merge count raised; otherwise, and for every RESULT and
READY, it becomes a new UNSENT entry at the tail. ATTN is asserted. -/
def Obligations.ReportsMergeOrJoinTheTail : Prop :=
  ∀ (s : State) (new : Report),
    ((∀ e ∈ s.reports.queue, e.status = .unsent → e.report.merge? new = none) →
      s.putReport new =
        { s with
          reports := { s.reports with queue := s.reports.queue ++ [⟨new, .unsent⟩], attn := true } }) ∧
    (∀ (before after : List ReportEntry) (old merged : Report),
      s.reports.queue = before ++ ⟨old, .unsent⟩ :: after →
      (∀ e ∈ before, e.status = .unsent → e.report.merge? new = none) → old.merge? new = some merged →
      s.putReport new =
        { s with
          reports := { s.reports with queue := before ++ ⟨merged, .unsent⟩ :: after, attn := true } }) ∧
    (∀ (a b : Addr) (n n' : Nat) (image image' : List Byte) (m m' : Byte),
      Report.merge? (.image a n image m) (.image b n' image' m') =
        if a = b then some (.image a n' image' (if m = 0xFF#8 then 0xFF#8 else m + 1)) else none) ∧
    (∀ (a b : Addr) (f t f' t' : StationState) (r r' : StationReason) (i i' : Option Identity) (m m' : Byte),
      Report.merge? (.station a f t r i m) (.station b f' t' r' i' m') =
        if a = b then some (.station a f t' r' i' (if m = 0xFF#8 then 0xFF#8 else m + 1)) else none) ∧
    (∀ (f t f' t' : LineRole) (r r' : LineReason) (d d' : LineDetail) (m m' : Byte),
      Report.merge? (.line f t r d m) (.line f' t' r' d' m') =
        some (.line f t' r' d' (if m = 0xFF#8 then 0xFF#8 else m + 1))) ∧
    (∀ (old : Report) (tag : Half) (kind : RequestKind) (result : RequestResult) (attempts : Nat)
        (last : Option ExOutcome) (data : List Byte) (cause : ResetCause) (revision : Byte),
      old.merge? (.result tag kind result attempts last data) = none ∧ old.merge? (.ready cause revision) = none)

/-- R142: 16 RESULT reports, one READY, 4 SENT reports and 31 + 31 + 1 UNSENT ones are the most: the report queue
never holds more than 84 entries. -/
def Obligations.ReportQueueHoldsAtMost84 : Prop :=
  ∀ s : State, CallQueueOk s → ReportsOk s → s.reports.queue.length ≤ 84

/-! ### What always holds -/

/-- Right after reset everything holds that is said to hold always. -/
def Obligations.ResetStateIsOk : Prop := DeviceOk State.reset

/-- R1, R2, R22, R25: every step keeps each entry within its ranges: level, period, image length, miss limit, watch
mask and images of the image length, and the miss count and identity its state calls for. -/
def Obligations.EveryStepKeepsStationsInRange : Prop :=
  ∀ s t : State, DeviceOk s → step s = .next t → StationsOk t

/-- R3, R55, R61, R69, R90, R94, R114, R187: every step keeps the line and the timetable: next due is present exactly
while the state calls for a call that is not committed; a committed call fits its station's state; LDE is asserted
in SENDING alone; no exchange in OFF or YIELDED and one past GAP in STOPPING; pending, phase and timer of the
fallback together. -/
def Obligations.EveryStepKeepsLineAndTimetable : Prop :=
  ∀ s t : State, DeviceOk s → step s = .next t → LineOk t ∧ TimetableOk t

/-- R29 to R31, R36, R42, R129, R132, R137, R143, R145, R147, R148, R151: every step keeps the live set and the
report queue: at most 16 requests of distinct tags, ON_LINE exactly the one on the line, WAITING only for stations
that serve, REPORTED exactly those with a RESULT report queued; SENT entries in front with consecutive numbers, at
most 4, one UNSENT report of a kind and subject; STALLED exactly at round count 8. -/
def Obligations.EveryStepKeepsRequestsAndReports : Prop :=
  ∀ s t : State, DeviceOk s → step s = .next t → CallQueueOk t ∧ ReportsOk t

/-- R115, R147, R157, R162 to R164, R167, R170, R182, R186, R188: every step keeps the host side: a held response is
the cached one, and only then a command waits or a rate switch or a restart is pending; the parameters stay in
range; held in reset nothing is in progress. -/
def Obligations.EveryStepKeepsHostSideAndParameters : Prop :=
  ∀ s t : State, DeviceOk s → step s = .next t → HostSideOk t ∧ ParametersOk t ∧ HeldOk t

end
end

