-- ==== Sys2Proof/Laws/State.lean ====
section
/-!
SUPPORT. One lemma for each field under each update of State, so that no proof unfolds a record update.
-/

namespace Sys2Proof.Machine

@[simp] theorem State.withEngine_stations (f : LineEngine → LineEngine) (s : State) : (s.withEngine f).stations = s.stations := rfl
@[simp] theorem State.withEngine_requests (f : LineEngine → LineEngine) (s : State) : (s.withEngine f).requests = s.requests := rfl
@[simp] theorem State.withEngine_engine (f : LineEngine → LineEngine) (s : State) : (s.withEngine f).engine = f s.engine := rfl
@[simp] theorem State.withEngine_reports (f : LineEngine → LineEngine) (s : State) : (s.withEngine f).reports = s.reports := rfl
@[simp] theorem State.withEngine_host (f : LineEngine → LineEngine) (s : State) : (s.withEngine f).host = s.host := rfl
@[simp] theorem State.withEngine_unit (f : LineEngine → LineEngine) (s : State) : (s.withEngine f).unit = s.unit := rfl
@[simp] theorem State.withEngine_fallback (f : LineEngine → LineEngine) (s : State) : (s.withEngine f).fallback = s.fallback := rfl
@[simp] theorem State.withEngine_clock (f : LineEngine → LineEngine) (s : State) : (s.withEngine f).clock = s.clock := rfl
@[simp] theorem State.withEngine_subMs (f : LineEngine → LineEngine) (s : State) : (s.withEngine f).subMs = s.subMs := rfl
@[simp] theorem State.withEngine_power (f : LineEngine → LineEngine) (s : State) : (s.withEngine f).power = s.power := rfl
@[simp] theorem State.withEngine_pending (f : LineEngine → LineEngine) (s : State) : (s.withEngine f).pending = s.pending := rfl
@[simp] theorem State.withEngine_held (f : LineEngine → LineEngine) (s : State) : (s.withEngine f).held = s.held := rfl
@[simp] theorem State.withEngine_station (f : LineEngine → LineEngine) (s : State) (a : Addr) : (s.withEngine f).station a = s.station a := rfl

@[simp] theorem State.withReports_stations (f : ReportUnit → ReportUnit) (s : State) : (s.withReports f).stations = s.stations := rfl
@[simp] theorem State.withReports_requests (f : ReportUnit → ReportUnit) (s : State) : (s.withReports f).requests = s.requests := rfl
@[simp] theorem State.withReports_engine (f : ReportUnit → ReportUnit) (s : State) : (s.withReports f).engine = s.engine := rfl
@[simp] theorem State.withReports_reports (f : ReportUnit → ReportUnit) (s : State) : (s.withReports f).reports = f s.reports := rfl
@[simp] theorem State.withReports_host (f : ReportUnit → ReportUnit) (s : State) : (s.withReports f).host = s.host := rfl
@[simp] theorem State.withReports_unit (f : ReportUnit → ReportUnit) (s : State) : (s.withReports f).unit = s.unit := rfl
@[simp] theorem State.withReports_fallback (f : ReportUnit → ReportUnit) (s : State) : (s.withReports f).fallback = s.fallback := rfl
@[simp] theorem State.withReports_clock (f : ReportUnit → ReportUnit) (s : State) : (s.withReports f).clock = s.clock := rfl
@[simp] theorem State.withReports_subMs (f : ReportUnit → ReportUnit) (s : State) : (s.withReports f).subMs = s.subMs := rfl
@[simp] theorem State.withReports_power (f : ReportUnit → ReportUnit) (s : State) : (s.withReports f).power = s.power := rfl
@[simp] theorem State.withReports_pending (f : ReportUnit → ReportUnit) (s : State) : (s.withReports f).pending = s.pending := rfl
@[simp] theorem State.withReports_held (f : ReportUnit → ReportUnit) (s : State) : (s.withReports f).held = s.held := rfl
@[simp] theorem State.withReports_station (f : ReportUnit → ReportUnit) (s : State) (a : Addr) : (s.withReports f).station a = s.station a := rfl

@[simp] theorem State.withHost_stations (f : HostLink → HostLink) (s : State) : (s.withHost f).stations = s.stations := rfl
@[simp] theorem State.withHost_requests (f : HostLink → HostLink) (s : State) : (s.withHost f).requests = s.requests := rfl
@[simp] theorem State.withHost_engine (f : HostLink → HostLink) (s : State) : (s.withHost f).engine = s.engine := rfl
@[simp] theorem State.withHost_reports (f : HostLink → HostLink) (s : State) : (s.withHost f).reports = s.reports := rfl
@[simp] theorem State.withHost_host (f : HostLink → HostLink) (s : State) : (s.withHost f).host = f s.host := rfl
@[simp] theorem State.withHost_unit (f : HostLink → HostLink) (s : State) : (s.withHost f).unit = s.unit := rfl
@[simp] theorem State.withHost_fallback (f : HostLink → HostLink) (s : State) : (s.withHost f).fallback = s.fallback := rfl
@[simp] theorem State.withHost_clock (f : HostLink → HostLink) (s : State) : (s.withHost f).clock = s.clock := rfl
@[simp] theorem State.withHost_subMs (f : HostLink → HostLink) (s : State) : (s.withHost f).subMs = s.subMs := rfl
@[simp] theorem State.withHost_power (f : HostLink → HostLink) (s : State) : (s.withHost f).power = s.power := rfl
@[simp] theorem State.withHost_pending (f : HostLink → HostLink) (s : State) : (s.withHost f).pending = s.pending := rfl
@[simp] theorem State.withHost_held (f : HostLink → HostLink) (s : State) : (s.withHost f).held = s.held := rfl
@[simp] theorem State.withHost_station (f : HostLink → HostLink) (s : State) (a : Addr) : (s.withHost f).station a = s.station a := rfl

@[simp] theorem State.withUnit_stations (f : CommandUnit → CommandUnit) (s : State) : (s.withUnit f).stations = s.stations := rfl
@[simp] theorem State.withUnit_requests (f : CommandUnit → CommandUnit) (s : State) : (s.withUnit f).requests = s.requests := rfl
@[simp] theorem State.withUnit_engine (f : CommandUnit → CommandUnit) (s : State) : (s.withUnit f).engine = s.engine := rfl
@[simp] theorem State.withUnit_reports (f : CommandUnit → CommandUnit) (s : State) : (s.withUnit f).reports = s.reports := rfl
@[simp] theorem State.withUnit_host (f : CommandUnit → CommandUnit) (s : State) : (s.withUnit f).host = s.host := rfl
@[simp] theorem State.withUnit_unit (f : CommandUnit → CommandUnit) (s : State) : (s.withUnit f).unit = f s.unit := rfl
@[simp] theorem State.withUnit_fallback (f : CommandUnit → CommandUnit) (s : State) : (s.withUnit f).fallback = s.fallback := rfl
@[simp] theorem State.withUnit_clock (f : CommandUnit → CommandUnit) (s : State) : (s.withUnit f).clock = s.clock := rfl
@[simp] theorem State.withUnit_subMs (f : CommandUnit → CommandUnit) (s : State) : (s.withUnit f).subMs = s.subMs := rfl
@[simp] theorem State.withUnit_power (f : CommandUnit → CommandUnit) (s : State) : (s.withUnit f).power = s.power := rfl
@[simp] theorem State.withUnit_pending (f : CommandUnit → CommandUnit) (s : State) : (s.withUnit f).pending = s.pending := rfl
@[simp] theorem State.withUnit_held (f : CommandUnit → CommandUnit) (s : State) : (s.withUnit f).held = s.held := rfl
@[simp] theorem State.withUnit_station (f : CommandUnit → CommandUnit) (s : State) (a : Addr) : (s.withUnit f).station a = s.station a := rfl

@[simp] theorem State.withFallback_stations (f : Fallback → Fallback) (s : State) : (s.withFallback f).stations = s.stations := rfl
@[simp] theorem State.withFallback_requests (f : Fallback → Fallback) (s : State) : (s.withFallback f).requests = s.requests := rfl
@[simp] theorem State.withFallback_engine (f : Fallback → Fallback) (s : State) : (s.withFallback f).engine = s.engine := rfl
@[simp] theorem State.withFallback_reports (f : Fallback → Fallback) (s : State) : (s.withFallback f).reports = s.reports := rfl
@[simp] theorem State.withFallback_host (f : Fallback → Fallback) (s : State) : (s.withFallback f).host = s.host := rfl
@[simp] theorem State.withFallback_unit (f : Fallback → Fallback) (s : State) : (s.withFallback f).unit = s.unit := rfl
@[simp] theorem State.withFallback_fallback (f : Fallback → Fallback) (s : State) : (s.withFallback f).fallback = f s.fallback := rfl
@[simp] theorem State.withFallback_clock (f : Fallback → Fallback) (s : State) : (s.withFallback f).clock = s.clock := rfl
@[simp] theorem State.withFallback_subMs (f : Fallback → Fallback) (s : State) : (s.withFallback f).subMs = s.subMs := rfl
@[simp] theorem State.withFallback_power (f : Fallback → Fallback) (s : State) : (s.withFallback f).power = s.power := rfl
@[simp] theorem State.withFallback_pending (f : Fallback → Fallback) (s : State) : (s.withFallback f).pending = s.pending := rfl
@[simp] theorem State.withFallback_held (f : Fallback → Fallback) (s : State) : (s.withFallback f).held = s.held := rfl
@[simp] theorem State.withFallback_station (f : Fallback → Fallback) (s : State) (a : Addr) : (s.withFallback f).station a = s.station a := rfl

@[simp] theorem State.withRequests_stations (f : List Request → List Request) (s : State) : (s.withRequests f).stations = s.stations := rfl
@[simp] theorem State.withRequests_requests (f : List Request → List Request) (s : State) : (s.withRequests f).requests = f s.requests := rfl
@[simp] theorem State.withRequests_engine (f : List Request → List Request) (s : State) : (s.withRequests f).engine = s.engine := rfl
@[simp] theorem State.withRequests_reports (f : List Request → List Request) (s : State) : (s.withRequests f).reports = s.reports := rfl
@[simp] theorem State.withRequests_host (f : List Request → List Request) (s : State) : (s.withRequests f).host = s.host := rfl
@[simp] theorem State.withRequests_unit (f : List Request → List Request) (s : State) : (s.withRequests f).unit = s.unit := rfl
@[simp] theorem State.withRequests_fallback (f : List Request → List Request) (s : State) : (s.withRequests f).fallback = s.fallback := rfl
@[simp] theorem State.withRequests_clock (f : List Request → List Request) (s : State) : (s.withRequests f).clock = s.clock := rfl
@[simp] theorem State.withRequests_subMs (f : List Request → List Request) (s : State) : (s.withRequests f).subMs = s.subMs := rfl
@[simp] theorem State.withRequests_power (f : List Request → List Request) (s : State) : (s.withRequests f).power = s.power := rfl
@[simp] theorem State.withRequests_pending (f : List Request → List Request) (s : State) : (s.withRequests f).pending = s.pending := rfl
@[simp] theorem State.withRequests_held (f : List Request → List Request) (s : State) : (s.withRequests f).held = s.held := rfl
@[simp] theorem State.withRequests_station (f : List Request → List Request) (s : State) (a : Addr) : (s.withRequests f).station a = s.station a := rfl

@[simp] theorem State.setStation_requests (a : Addr) (e : Station) (s : State) : (s.setStation a e).requests = s.requests := rfl
@[simp] theorem State.setStation_engine (a : Addr) (e : Station) (s : State) : (s.setStation a e).engine = s.engine := rfl
@[simp] theorem State.setStation_reports (a : Addr) (e : Station) (s : State) : (s.setStation a e).reports = s.reports := rfl
@[simp] theorem State.setStation_host (a : Addr) (e : Station) (s : State) : (s.setStation a e).host = s.host := rfl
@[simp] theorem State.setStation_unit (a : Addr) (e : Station) (s : State) : (s.setStation a e).unit = s.unit := rfl
@[simp] theorem State.setStation_fallback (a : Addr) (e : Station) (s : State) : (s.setStation a e).fallback = s.fallback := rfl
@[simp] theorem State.setStation_clock (a : Addr) (e : Station) (s : State) : (s.setStation a e).clock = s.clock := rfl
@[simp] theorem State.setStation_subMs (a : Addr) (e : Station) (s : State) : (s.setStation a e).subMs = s.subMs := rfl
@[simp] theorem State.setStation_power (a : Addr) (e : Station) (s : State) : (s.setStation a e).power = s.power := rfl
@[simp] theorem State.setStation_pending (a : Addr) (e : Station) (s : State) : (s.setStation a e).pending = s.pending := rfl
@[simp] theorem State.setStation_held (a : Addr) (e : Station) (s : State) : (s.setStation a e).held = s.held := rfl

@[simp] theorem State.withStation_requests (a : Addr) (f : Station → Station) (s : State) :
    (s.withStation a f).requests = s.requests := rfl
@[simp] theorem State.withStation_engine (a : Addr) (f : Station → Station) (s : State) :
    (s.withStation a f).engine = s.engine := rfl
@[simp] theorem State.withStation_reports (a : Addr) (f : Station → Station) (s : State) :
    (s.withStation a f).reports = s.reports := rfl
@[simp] theorem State.withStation_host (a : Addr) (f : Station → Station) (s : State) :
    (s.withStation a f).host = s.host := rfl
@[simp] theorem State.withStation_unit (a : Addr) (f : Station → Station) (s : State) :
    (s.withStation a f).unit = s.unit := rfl
@[simp] theorem State.withStation_fallback (a : Addr) (f : Station → Station) (s : State) :
    (s.withStation a f).fallback = s.fallback := rfl
@[simp] theorem State.withStation_clock (a : Addr) (f : Station → Station) (s : State) :
    (s.withStation a f).clock = s.clock := rfl
@[simp] theorem State.withStation_subMs (a : Addr) (f : Station → Station) (s : State) :
    (s.withStation a f).subMs = s.subMs := rfl
@[simp] theorem State.withStation_power (a : Addr) (f : Station → Station) (s : State) :
    (s.withStation a f).power = s.power := rfl
@[simp] theorem State.withStation_pending (a : Addr) (f : Station → Station) (s : State) :
    (s.withStation a f).pending = s.pending := rfl
@[simp] theorem State.withStation_held (a : Addr) (f : Station → Station) (s : State) :
    (s.withStation a f).held = s.held := rfl

/-- An entry just written reads back. -/
@[simp] theorem State.station_setStation_self (a : Addr) (e : Station) (s : State) :
    (s.setStation a e).station a = e := by
  simp [State.station, State.setStation]

/-- Every other entry is untouched. -/
theorem State.station_setStation_other {a b : Addr} (h : b ≠ a) (e : Station) (s : State) :
    (s.setStation a e).station b = s.station b := by
  have hv : a.val ≠ b.val := fun hh => h (Fin.ext hh.symm)
  simp [State.station, State.setStation, hv]

@[simp] theorem State.station_withStation_self (a : Addr) (f : Station → Station) (s : State) :
    (s.withStation a f).station a = f (s.station a) := by
  simp [State.withStation]

theorem State.station_withStation_other {a b : Addr} (h : b ≠ a) (f : Station → Station) (s : State) :
    (s.withStation a f).station b = s.station b := by
  simp [State.withStation, State.station_setStation_other h]

/-- `withHostCounters` and `withLineCounters` are updates of their blocks. -/
theorem State.withHostCounters_eq (f : HostCounters → HostCounters) (s : State) :
    s.withHostCounters f = s.withHost fun h => { h with counters := f h.counters } := rfl

theorem State.withLineCounters_eq (f : LineCounters → LineCounters) (s : State) :
    s.withLineCounters f = s.withEngine fun e => { e with counters := f e.counters } := rfl

/-- A report queue set anew. -/
@[simp] theorem ReportUnit.setQueue_queue (q : List ReportEntry) (u : ReportUnit) : (u.setQueue q).queue = q := rfl
@[simp] theorem ReportUnit.setQueue_attn (q : List ReportEntry) (u : ReportUnit) :
    (u.setQueue q).attn = !q.isEmpty := rfl

/-- Writing a block back as it stands changes nothing. -/
@[simp] theorem State.withHost_self (s : State) : s.withHost (fun h => h) = s := rfl
@[simp] theorem State.withEngine_self (s : State) : s.withEngine (fun e => e) = s := rfl

/-- In a running device a meaning is its body. -/
theorem whenRunning_of_running {f : State → State} {s : State} (h : s.held = false) : whenRunning f s = f s := by
  simp [whenRunning, h]

/-- Held in reset a meaning changes nothing. -/
theorem whenRunning_of_held {f : State → State} {s : State} (h : s.held = true) : whenRunning f s = s := by
  simp [whenRunning, h]

end Sys2Proof.Machine
end

