-- ==== Sys2Proof/Laws/Frames.lean ====
section
/-!
SUPPORT. What each shared operation leaves alone: one lemma for each field of State the operation does not touch.
-/

namespace Sys2Proof.Machine

/-! `putReport` touches only: reports. -/

@[simp] theorem State.putReport_stations (r : Report) (s : State) :
    (s.putReport r).stations = s.stations := rfl

@[simp] theorem State.putReport_requests (r : Report) (s : State) :
    (s.putReport r).requests = s.requests := rfl

@[simp] theorem State.putReport_engine (r : Report) (s : State) :
    (s.putReport r).engine = s.engine := rfl

@[simp] theorem State.putReport_host (r : Report) (s : State) :
    (s.putReport r).host = s.host := rfl

@[simp] theorem State.putReport_unit (r : Report) (s : State) :
    (s.putReport r).unit = s.unit := rfl

@[simp] theorem State.putReport_fallback (r : Report) (s : State) :
    (s.putReport r).fallback = s.fallback := rfl

@[simp] theorem State.putReport_clock (r : Report) (s : State) :
    (s.putReport r).clock = s.clock := rfl

@[simp] theorem State.putReport_subMs (r : Report) (s : State) :
    (s.putReport r).subMs = s.subMs := rfl

@[simp] theorem State.putReport_power (r : Report) (s : State) :
    (s.putReport r).power = s.power := rfl

@[simp] theorem State.putReport_pending (r : Report) (s : State) :
    (s.putReport r).pending = s.pending := rfl

@[simp] theorem State.putReport_held (r : Report) (s : State) :
    (s.putReport r).held = s.held := by
  simp [State.held]

@[simp] theorem State.putReport_station (r : Report) (s : State) (b : Addr) :
    (s.putReport r).station b = s.station b := by
  simp [State.station]

/-! `updateRequest` touches only: requests. -/

@[simp] theorem State.updateRequest_stations (tag : Half) (f : Request → Request) (s : State) :
    (s.updateRequest tag f).stations = s.stations := rfl

@[simp] theorem State.updateRequest_engine (tag : Half) (f : Request → Request) (s : State) :
    (s.updateRequest tag f).engine = s.engine := rfl

@[simp] theorem State.updateRequest_reports (tag : Half) (f : Request → Request) (s : State) :
    (s.updateRequest tag f).reports = s.reports := rfl

@[simp] theorem State.updateRequest_host (tag : Half) (f : Request → Request) (s : State) :
    (s.updateRequest tag f).host = s.host := rfl

@[simp] theorem State.updateRequest_unit (tag : Half) (f : Request → Request) (s : State) :
    (s.updateRequest tag f).unit = s.unit := rfl

@[simp] theorem State.updateRequest_fallback (tag : Half) (f : Request → Request) (s : State) :
    (s.updateRequest tag f).fallback = s.fallback := rfl

@[simp] theorem State.updateRequest_clock (tag : Half) (f : Request → Request) (s : State) :
    (s.updateRequest tag f).clock = s.clock := rfl

@[simp] theorem State.updateRequest_subMs (tag : Half) (f : Request → Request) (s : State) :
    (s.updateRequest tag f).subMs = s.subMs := rfl

@[simp] theorem State.updateRequest_power (tag : Half) (f : Request → Request) (s : State) :
    (s.updateRequest tag f).power = s.power := rfl

@[simp] theorem State.updateRequest_pending (tag : Half) (f : Request → Request) (s : State) :
    (s.updateRequest tag f).pending = s.pending := rfl

@[simp] theorem State.updateRequest_held (tag : Half) (f : Request → Request) (s : State) :
    (s.updateRequest tag f).held = s.held := by
  simp [State.held]

@[simp] theorem State.updateRequest_station (tag : Half) (f : Request → Request) (s : State) (b : Addr) :
    (s.updateRequest tag f).station b = s.station b := by
  simp [State.station]

/-! `releaseTags` touches only: requests. -/

@[simp] theorem State.releaseTags_stations (tags : List Half) (s : State) :
    (s.releaseTags tags).stations = s.stations := rfl

@[simp] theorem State.releaseTags_engine (tags : List Half) (s : State) :
    (s.releaseTags tags).engine = s.engine := rfl

@[simp] theorem State.releaseTags_reports (tags : List Half) (s : State) :
    (s.releaseTags tags).reports = s.reports := rfl

@[simp] theorem State.releaseTags_host (tags : List Half) (s : State) :
    (s.releaseTags tags).host = s.host := rfl

@[simp] theorem State.releaseTags_unit (tags : List Half) (s : State) :
    (s.releaseTags tags).unit = s.unit := rfl

@[simp] theorem State.releaseTags_fallback (tags : List Half) (s : State) :
    (s.releaseTags tags).fallback = s.fallback := rfl

@[simp] theorem State.releaseTags_clock (tags : List Half) (s : State) :
    (s.releaseTags tags).clock = s.clock := rfl

@[simp] theorem State.releaseTags_subMs (tags : List Half) (s : State) :
    (s.releaseTags tags).subMs = s.subMs := rfl

@[simp] theorem State.releaseTags_power (tags : List Half) (s : State) :
    (s.releaseTags tags).power = s.power := rfl

@[simp] theorem State.releaseTags_pending (tags : List Half) (s : State) :
    (s.releaseTags tags).pending = s.pending := rfl

@[simp] theorem State.releaseTags_held (tags : List Half) (s : State) :
    (s.releaseTags tags).held = s.held := by
  simp [State.held]

@[simp] theorem State.releaseTags_station (tags : List Half) (s : State) (b : Addr) :
    (s.releaseTags tags).station b = s.station b := by
  simp [State.station]

/-! `completeRequest` touches only: requests, reports. -/

@[simp] theorem State.completeRequest_stations (tag : Half) (result : RequestResult) (data : List Byte) (s : State) :
    (s.completeRequest tag result data).stations = s.stations := by
  unfold State.completeRequest
  try dsimp only
  split <;> simp

@[simp] theorem State.completeRequest_engine (tag : Half) (result : RequestResult) (data : List Byte) (s : State) :
    (s.completeRequest tag result data).engine = s.engine := by
  unfold State.completeRequest
  try dsimp only
  split <;> simp

@[simp] theorem State.completeRequest_host (tag : Half) (result : RequestResult) (data : List Byte) (s : State) :
    (s.completeRequest tag result data).host = s.host := by
  unfold State.completeRequest
  try dsimp only
  split <;> simp

@[simp] theorem State.completeRequest_unit (tag : Half) (result : RequestResult) (data : List Byte) (s : State) :
    (s.completeRequest tag result data).unit = s.unit := by
  unfold State.completeRequest
  try dsimp only
  split <;> simp

@[simp] theorem State.completeRequest_fallback (tag : Half) (result : RequestResult) (data : List Byte) (s : State) :
    (s.completeRequest tag result data).fallback = s.fallback := by
  unfold State.completeRequest
  try dsimp only
  split <;> simp

@[simp] theorem State.completeRequest_clock (tag : Half) (result : RequestResult) (data : List Byte) (s : State) :
    (s.completeRequest tag result data).clock = s.clock := by
  unfold State.completeRequest
  try dsimp only
  split <;> simp

@[simp] theorem State.completeRequest_subMs (tag : Half) (result : RequestResult) (data : List Byte) (s : State) :
    (s.completeRequest tag result data).subMs = s.subMs := by
  unfold State.completeRequest
  try dsimp only
  split <;> simp

@[simp] theorem State.completeRequest_power (tag : Half) (result : RequestResult) (data : List Byte) (s : State) :
    (s.completeRequest tag result data).power = s.power := by
  unfold State.completeRequest
  try dsimp only
  split <;> simp

@[simp] theorem State.completeRequest_pending (tag : Half) (result : RequestResult) (data : List Byte) (s : State) :
    (s.completeRequest tag result data).pending = s.pending := by
  unfold State.completeRequest
  try dsimp only
  split <;> simp

@[simp] theorem State.completeRequest_held (tag : Half) (result : RequestResult) (data : List Byte) (s : State) :
    (s.completeRequest tag result data).held = s.held := by
  simp [State.held]

@[simp] theorem State.completeRequest_station (tag : Half) (result : RequestResult) (data : List Byte) (s : State) (b : Addr) :
    (s.completeRequest tag result data).station b = s.station b := by
  simp [State.station]

/-! `removeWaiting` touches only: requests, reports. -/

@[simp] theorem State.removeWaiting_stations (a : Addr) (result : RequestResult) (s : State) :
    (s.removeWaiting a result).stations = s.stations := by
  unfold State.removeWaiting
  generalize List.filter (Request.waitsFor a) s.requests = rs
  induction rs generalizing s with
  | nil => rfl
  | cons r rs ih => simp [ih]

@[simp] theorem State.removeWaiting_engine (a : Addr) (result : RequestResult) (s : State) :
    (s.removeWaiting a result).engine = s.engine := by
  unfold State.removeWaiting
  generalize List.filter (Request.waitsFor a) s.requests = rs
  induction rs generalizing s with
  | nil => rfl
  | cons r rs ih => simp [ih]

@[simp] theorem State.removeWaiting_host (a : Addr) (result : RequestResult) (s : State) :
    (s.removeWaiting a result).host = s.host := by
  unfold State.removeWaiting
  generalize List.filter (Request.waitsFor a) s.requests = rs
  induction rs generalizing s with
  | nil => rfl
  | cons r rs ih => simp [ih]

@[simp] theorem State.removeWaiting_unit (a : Addr) (result : RequestResult) (s : State) :
    (s.removeWaiting a result).unit = s.unit := by
  unfold State.removeWaiting
  generalize List.filter (Request.waitsFor a) s.requests = rs
  induction rs generalizing s with
  | nil => rfl
  | cons r rs ih => simp [ih]

@[simp] theorem State.removeWaiting_fallback (a : Addr) (result : RequestResult) (s : State) :
    (s.removeWaiting a result).fallback = s.fallback := by
  unfold State.removeWaiting
  generalize List.filter (Request.waitsFor a) s.requests = rs
  induction rs generalizing s with
  | nil => rfl
  | cons r rs ih => simp [ih]

@[simp] theorem State.removeWaiting_clock (a : Addr) (result : RequestResult) (s : State) :
    (s.removeWaiting a result).clock = s.clock := by
  unfold State.removeWaiting
  generalize List.filter (Request.waitsFor a) s.requests = rs
  induction rs generalizing s with
  | nil => rfl
  | cons r rs ih => simp [ih]

@[simp] theorem State.removeWaiting_subMs (a : Addr) (result : RequestResult) (s : State) :
    (s.removeWaiting a result).subMs = s.subMs := by
  unfold State.removeWaiting
  generalize List.filter (Request.waitsFor a) s.requests = rs
  induction rs generalizing s with
  | nil => rfl
  | cons r rs ih => simp [ih]

@[simp] theorem State.removeWaiting_power (a : Addr) (result : RequestResult) (s : State) :
    (s.removeWaiting a result).power = s.power := by
  unfold State.removeWaiting
  generalize List.filter (Request.waitsFor a) s.requests = rs
  induction rs generalizing s with
  | nil => rfl
  | cons r rs ih => simp [ih]

@[simp] theorem State.removeWaiting_pending (a : Addr) (result : RequestResult) (s : State) :
    (s.removeWaiting a result).pending = s.pending := by
  unfold State.removeWaiting
  generalize List.filter (Request.waitsFor a) s.requests = rs
  induction rs generalizing s with
  | nil => rfl
  | cons r rs ih => simp [ih]

@[simp] theorem State.removeWaiting_held (a : Addr) (result : RequestResult) (s : State) :
    (s.removeWaiting a result).held = s.held := by
  simp [State.held]

@[simp] theorem State.removeWaiting_station (a : Addr) (result : RequestResult) (s : State) (b : Addr) :
    (s.removeWaiting a result).station b = s.station b := by
  simp [State.station]

/-! `hear` touches only: engine. -/

@[simp] theorem State.hear_stations (stop : StopBit) (s : State) :
    (s.hear stop).stations = s.stations := rfl

@[simp] theorem State.hear_requests (stop : StopBit) (s : State) :
    (s.hear stop).requests = s.requests := rfl

@[simp] theorem State.hear_reports (stop : StopBit) (s : State) :
    (s.hear stop).reports = s.reports := rfl

@[simp] theorem State.hear_host (stop : StopBit) (s : State) :
    (s.hear stop).host = s.host := rfl

@[simp] theorem State.hear_unit (stop : StopBit) (s : State) :
    (s.hear stop).unit = s.unit := rfl

@[simp] theorem State.hear_fallback (stop : StopBit) (s : State) :
    (s.hear stop).fallback = s.fallback := rfl

@[simp] theorem State.hear_clock (stop : StopBit) (s : State) :
    (s.hear stop).clock = s.clock := rfl

@[simp] theorem State.hear_subMs (stop : StopBit) (s : State) :
    (s.hear stop).subMs = s.subMs := rfl

@[simp] theorem State.hear_power (stop : StopBit) (s : State) :
    (s.hear stop).power = s.power := rfl

@[simp] theorem State.hear_pending (stop : StopBit) (s : State) :
    (s.hear stop).pending = s.pending := rfl

@[simp] theorem State.hear_held (stop : StopBit) (s : State) :
    (s.hear stop).held = s.held := by
  simp [State.held]

@[simp] theorem State.hear_station (stop : StopBit) (s : State) (b : Addr) :
    (s.hear stop).station b = s.station b := by
  simp [State.station]

/-! `restartSilence` touches only: fallback. -/

@[simp] theorem State.restartSilence_stations (s : State) :
    (s.restartSilence).stations = s.stations := by
  unfold State.restartSilence
  try dsimp only
  split <;> simp

@[simp] theorem State.restartSilence_requests (s : State) :
    (s.restartSilence).requests = s.requests := by
  unfold State.restartSilence
  try dsimp only
  split <;> simp

@[simp] theorem State.restartSilence_engine (s : State) :
    (s.restartSilence).engine = s.engine := by
  unfold State.restartSilence
  try dsimp only
  split <;> simp

@[simp] theorem State.restartSilence_reports (s : State) :
    (s.restartSilence).reports = s.reports := by
  unfold State.restartSilence
  try dsimp only
  split <;> simp

@[simp] theorem State.restartSilence_host (s : State) :
    (s.restartSilence).host = s.host := by
  unfold State.restartSilence
  try dsimp only
  split <;> simp

@[simp] theorem State.restartSilence_unit (s : State) :
    (s.restartSilence).unit = s.unit := by
  unfold State.restartSilence
  try dsimp only
  split <;> simp

@[simp] theorem State.restartSilence_clock (s : State) :
    (s.restartSilence).clock = s.clock := by
  unfold State.restartSilence
  try dsimp only
  split <;> simp

@[simp] theorem State.restartSilence_subMs (s : State) :
    (s.restartSilence).subMs = s.subMs := by
  unfold State.restartSilence
  try dsimp only
  split <;> simp

@[simp] theorem State.restartSilence_power (s : State) :
    (s.restartSilence).power = s.power := by
  unfold State.restartSilence
  try dsimp only
  split <;> simp

@[simp] theorem State.restartSilence_pending (s : State) :
    (s.restartSilence).pending = s.pending := by
  unfold State.restartSilence
  try dsimp only
  split <;> simp

@[simp] theorem State.restartSilence_held (s : State) :
    (s.restartSilence).held = s.held := by
  simp [State.held]

@[simp] theorem State.restartSilence_station (s : State) (b : Addr) :
    (s.restartSilence).station b = s.station b := by
  simp [State.station]

/-! `endStall` touches only: reports. -/

@[simp] theorem State.endStall_stations (s : State) :
    (s.endStall).stations = s.stations := by
  unfold State.endStall
  split
  · rfl
  · split <;> simp

@[simp] theorem State.endStall_requests (s : State) :
    (s.endStall).requests = s.requests := by
  unfold State.endStall
  split
  · rfl
  · split <;> simp

@[simp] theorem State.endStall_engine (s : State) :
    (s.endStall).engine = s.engine := by
  unfold State.endStall
  split
  · rfl
  · split <;> simp

@[simp] theorem State.endStall_host (s : State) :
    (s.endStall).host = s.host := by
  unfold State.endStall
  split
  · rfl
  · split <;> simp

@[simp] theorem State.endStall_unit (s : State) :
    (s.endStall).unit = s.unit := by
  unfold State.endStall
  split
  · rfl
  · split <;> simp

@[simp] theorem State.endStall_fallback (s : State) :
    (s.endStall).fallback = s.fallback := by
  unfold State.endStall
  split
  · rfl
  · split <;> simp

@[simp] theorem State.endStall_clock (s : State) :
    (s.endStall).clock = s.clock := by
  unfold State.endStall
  split
  · rfl
  · split <;> simp

@[simp] theorem State.endStall_subMs (s : State) :
    (s.endStall).subMs = s.subMs := by
  unfold State.endStall
  split
  · rfl
  · split <;> simp

@[simp] theorem State.endStall_power (s : State) :
    (s.endStall).power = s.power := by
  unfold State.endStall
  split
  · rfl
  · split <;> simp

@[simp] theorem State.endStall_pending (s : State) :
    (s.endStall).pending = s.pending := by
  unfold State.endStall
  split
  · rfl
  · split <;> simp

@[simp] theorem State.endStall_held (s : State) :
    (s.endStall).held = s.held := by
  simp [State.held]

@[simp] theorem State.endStall_station (s : State) (b : Addr) :
    (s.endStall).station b = s.station b := by
  simp [State.station]

/-! `goodCrcNotice` touches only: fallback, reports. -/

@[simp] theorem State.goodCrcNotice_stations (s : State) :
    (s.goodCrcNotice).stations = s.stations := by
  simp [State.goodCrcNotice]

@[simp] theorem State.goodCrcNotice_requests (s : State) :
    (s.goodCrcNotice).requests = s.requests := by
  simp [State.goodCrcNotice]

@[simp] theorem State.goodCrcNotice_engine (s : State) :
    (s.goodCrcNotice).engine = s.engine := by
  simp [State.goodCrcNotice]

@[simp] theorem State.goodCrcNotice_host (s : State) :
    (s.goodCrcNotice).host = s.host := by
  simp [State.goodCrcNotice]

@[simp] theorem State.goodCrcNotice_unit (s : State) :
    (s.goodCrcNotice).unit = s.unit := by
  simp [State.goodCrcNotice]

@[simp] theorem State.goodCrcNotice_clock (s : State) :
    (s.goodCrcNotice).clock = s.clock := by
  simp [State.goodCrcNotice]

@[simp] theorem State.goodCrcNotice_subMs (s : State) :
    (s.goodCrcNotice).subMs = s.subMs := by
  simp [State.goodCrcNotice]

@[simp] theorem State.goodCrcNotice_power (s : State) :
    (s.goodCrcNotice).power = s.power := by
  simp [State.goodCrcNotice]

@[simp] theorem State.goodCrcNotice_pending (s : State) :
    (s.goodCrcNotice).pending = s.pending := by
  simp [State.goodCrcNotice]

@[simp] theorem State.goodCrcNotice_held (s : State) :
    (s.goodCrcNotice).held = s.held := by
  simp [State.held]

@[simp] theorem State.goodCrcNotice_station (s : State) (b : Addr) :
    (s.goodCrcNotice).station b = s.station b := by
  simp [State.station]

/-! `commit` touches only: requests, stations, engine. -/

@[simp] theorem State.commit_reports (c : Candidate) (s : State) :
    (s.commit c).reports = s.reports := by
  cases c <;> simp [State.commit]

@[simp] theorem State.commit_host (c : Candidate) (s : State) :
    (s.commit c).host = s.host := by
  cases c <;> simp [State.commit]

@[simp] theorem State.commit_unit (c : Candidate) (s : State) :
    (s.commit c).unit = s.unit := by
  cases c <;> simp [State.commit]

@[simp] theorem State.commit_fallback (c : Candidate) (s : State) :
    (s.commit c).fallback = s.fallback := by
  cases c <;> simp [State.commit]

@[simp] theorem State.commit_clock (c : Candidate) (s : State) :
    (s.commit c).clock = s.clock := by
  cases c <;> simp [State.commit]

@[simp] theorem State.commit_subMs (c : Candidate) (s : State) :
    (s.commit c).subMs = s.subMs := by
  cases c <;> simp [State.commit]

@[simp] theorem State.commit_power (c : Candidate) (s : State) :
    (s.commit c).power = s.power := by
  cases c <;> simp [State.commit]

@[simp] theorem State.commit_pending (c : Candidate) (s : State) :
    (s.commit c).pending = s.pending := by
  cases c <;> simp [State.commit]

@[simp] theorem State.commit_held (c : Candidate) (s : State) :
    (s.commit c).held = s.held := by
  simp [State.held]

/-! `select` touches only: requests, stations, engine. -/

@[simp] theorem State.select_reports (s : State) :
    (s.select).reports = s.reports := by
  unfold State.select
  repeat' split
  all_goals simp

@[simp] theorem State.select_host (s : State) :
    (s.select).host = s.host := by
  unfold State.select
  repeat' split
  all_goals simp

@[simp] theorem State.select_unit (s : State) :
    (s.select).unit = s.unit := by
  unfold State.select
  repeat' split
  all_goals simp

@[simp] theorem State.select_fallback (s : State) :
    (s.select).fallback = s.fallback := by
  unfold State.select
  repeat' split
  all_goals simp

@[simp] theorem State.select_clock (s : State) :
    (s.select).clock = s.clock := by
  unfold State.select
  repeat' split
  all_goals simp

@[simp] theorem State.select_subMs (s : State) :
    (s.select).subMs = s.subMs := by
  unfold State.select
  repeat' split
  all_goals simp

@[simp] theorem State.select_power (s : State) :
    (s.select).power = s.power := by
  unfold State.select
  repeat' split
  all_goals simp

@[simp] theorem State.select_pending (s : State) :
    (s.select).pending = s.pending := by
  unfold State.select
  repeat' split
  all_goals simp

@[simp] theorem State.select_held (s : State) :
    (s.select).held = s.held := by
  simp [State.held]

/-! `selectIf` touches only: requests, stations, engine. -/

@[simp] theorem State.selectIf_reports (created : Bool) (s : State) :
    (s.selectIf created).reports = s.reports := by
  unfold State.selectIf
  try dsimp only
  split <;> simp

@[simp] theorem State.selectIf_host (created : Bool) (s : State) :
    (s.selectIf created).host = s.host := by
  unfold State.selectIf
  try dsimp only
  split <;> simp

@[simp] theorem State.selectIf_unit (created : Bool) (s : State) :
    (s.selectIf created).unit = s.unit := by
  unfold State.selectIf
  try dsimp only
  split <;> simp

@[simp] theorem State.selectIf_fallback (created : Bool) (s : State) :
    (s.selectIf created).fallback = s.fallback := by
  unfold State.selectIf
  try dsimp only
  split <;> simp

@[simp] theorem State.selectIf_clock (created : Bool) (s : State) :
    (s.selectIf created).clock = s.clock := by
  unfold State.selectIf
  try dsimp only
  split <;> simp

@[simp] theorem State.selectIf_subMs (created : Bool) (s : State) :
    (s.selectIf created).subMs = s.subMs := by
  unfold State.selectIf
  try dsimp only
  split <;> simp

@[simp] theorem State.selectIf_power (created : Bool) (s : State) :
    (s.selectIf created).power = s.power := by
  unfold State.selectIf
  try dsimp only
  split <;> simp

@[simp] theorem State.selectIf_pending (created : Bool) (s : State) :
    (s.selectIf created).pending = s.pending := by
  unfold State.selectIf
  try dsimp only
  split <;> simp

@[simp] theorem State.selectIf_held (created : Bool) (s : State) :
    (s.selectIf created).held = s.held := by
  simp [State.held]

/-! `enterLost` touches only: stations, requests, reports. -/

@[simp] theorem State.enterLost_engine (a : Addr) (fromState : StationState) (s : State) :
    (s.enterLost a fromState).engine = s.engine := by
  simp [State.enterLost]

@[simp] theorem State.enterLost_host (a : Addr) (fromState : StationState) (s : State) :
    (s.enterLost a fromState).host = s.host := by
  simp [State.enterLost]

@[simp] theorem State.enterLost_unit (a : Addr) (fromState : StationState) (s : State) :
    (s.enterLost a fromState).unit = s.unit := by
  simp [State.enterLost]

@[simp] theorem State.enterLost_fallback (a : Addr) (fromState : StationState) (s : State) :
    (s.enterLost a fromState).fallback = s.fallback := by
  simp [State.enterLost]

@[simp] theorem State.enterLost_clock (a : Addr) (fromState : StationState) (s : State) :
    (s.enterLost a fromState).clock = s.clock := by
  simp [State.enterLost]

@[simp] theorem State.enterLost_subMs (a : Addr) (fromState : StationState) (s : State) :
    (s.enterLost a fromState).subMs = s.subMs := by
  simp [State.enterLost]

@[simp] theorem State.enterLost_power (a : Addr) (fromState : StationState) (s : State) :
    (s.enterLost a fromState).power = s.power := by
  simp [State.enterLost]

@[simp] theorem State.enterLost_pending (a : Addr) (fromState : StationState) (s : State) :
    (s.enterLost a fromState).pending = s.pending := by
  simp [State.enterLost]

@[simp] theorem State.enterLost_held (a : Addr) (fromState : StationState) (s : State) :
    (s.enterLost a fromState).held = s.held := by
  simp [State.held]

/-! `storeImage` touches only: stations, reports. -/

@[simp] theorem State.storeImage_requests (a : Addr) (data : List Byte) (s : State) :
    (s.storeImage a data).requests = s.requests := by
  unfold State.storeImage
  try dsimp only
  split <;> simp

@[simp] theorem State.storeImage_engine (a : Addr) (data : List Byte) (s : State) :
    (s.storeImage a data).engine = s.engine := by
  unfold State.storeImage
  try dsimp only
  split <;> simp

@[simp] theorem State.storeImage_host (a : Addr) (data : List Byte) (s : State) :
    (s.storeImage a data).host = s.host := by
  unfold State.storeImage
  try dsimp only
  split <;> simp

@[simp] theorem State.storeImage_unit (a : Addr) (data : List Byte) (s : State) :
    (s.storeImage a data).unit = s.unit := by
  unfold State.storeImage
  try dsimp only
  split <;> simp

@[simp] theorem State.storeImage_fallback (a : Addr) (data : List Byte) (s : State) :
    (s.storeImage a data).fallback = s.fallback := by
  unfold State.storeImage
  try dsimp only
  split <;> simp

@[simp] theorem State.storeImage_clock (a : Addr) (data : List Byte) (s : State) :
    (s.storeImage a data).clock = s.clock := by
  unfold State.storeImage
  try dsimp only
  split <;> simp

@[simp] theorem State.storeImage_subMs (a : Addr) (data : List Byte) (s : State) :
    (s.storeImage a data).subMs = s.subMs := by
  unfold State.storeImage
  try dsimp only
  split <;> simp

@[simp] theorem State.storeImage_power (a : Addr) (data : List Byte) (s : State) :
    (s.storeImage a data).power = s.power := by
  unfold State.storeImage
  try dsimp only
  split <;> simp

@[simp] theorem State.storeImage_pending (a : Addr) (data : List Byte) (s : State) :
    (s.storeImage a data).pending = s.pending := by
  unfold State.storeImage
  try dsimp only
  split <;> simp

@[simp] theorem State.storeImage_held (a : Addr) (data : List Byte) (s : State) :
    (s.storeImage a data).held = s.held := by
  simp [State.held]

/-! `handleImage` touches only: stations, reports. -/

@[simp] theorem State.handleImage_requests (a : Addr) (recorded : Option Nat) (data : List Byte) (s : State) :
    (s.handleImage a recorded data).requests = s.requests := by
  unfold State.handleImage
  try dsimp only
  split <;> simp

@[simp] theorem State.handleImage_engine (a : Addr) (recorded : Option Nat) (data : List Byte) (s : State) :
    (s.handleImage a recorded data).engine = s.engine := by
  unfold State.handleImage
  try dsimp only
  split <;> simp

@[simp] theorem State.handleImage_host (a : Addr) (recorded : Option Nat) (data : List Byte) (s : State) :
    (s.handleImage a recorded data).host = s.host := by
  unfold State.handleImage
  try dsimp only
  split <;> simp

@[simp] theorem State.handleImage_unit (a : Addr) (recorded : Option Nat) (data : List Byte) (s : State) :
    (s.handleImage a recorded data).unit = s.unit := by
  unfold State.handleImage
  try dsimp only
  split <;> simp

@[simp] theorem State.handleImage_fallback (a : Addr) (recorded : Option Nat) (data : List Byte) (s : State) :
    (s.handleImage a recorded data).fallback = s.fallback := by
  unfold State.handleImage
  try dsimp only
  split <;> simp

@[simp] theorem State.handleImage_clock (a : Addr) (recorded : Option Nat) (data : List Byte) (s : State) :
    (s.handleImage a recorded data).clock = s.clock := by
  unfold State.handleImage
  try dsimp only
  split <;> simp

@[simp] theorem State.handleImage_subMs (a : Addr) (recorded : Option Nat) (data : List Byte) (s : State) :
    (s.handleImage a recorded data).subMs = s.subMs := by
  unfold State.handleImage
  try dsimp only
  split <;> simp

@[simp] theorem State.handleImage_power (a : Addr) (recorded : Option Nat) (data : List Byte) (s : State) :
    (s.handleImage a recorded data).power = s.power := by
  unfold State.handleImage
  try dsimp only
  split <;> simp

@[simp] theorem State.handleImage_pending (a : Addr) (recorded : Option Nat) (data : List Byte) (s : State) :
    (s.handleImage a recorded data).pending = s.pending := by
  unfold State.handleImage
  try dsimp only
  split <;> simp

@[simp] theorem State.handleImage_held (a : Addr) (recorded : Option Nat) (data : List Byte) (s : State) :
    (s.handleImage a recorded data).held = s.held := by
  simp [State.held]

/-! `hailAnswered` touches only: stations, reports. -/

@[simp] theorem State.hailAnswered_requests (a : Addr) (must : Option Identity) (identity : Identity) (reason : StationReason) (s : State) :
    (s.hailAnswered a must identity reason).requests = s.requests := by
  unfold State.hailAnswered
  try dsimp only
  split <;> simp

@[simp] theorem State.hailAnswered_engine (a : Addr) (must : Option Identity) (identity : Identity) (reason : StationReason) (s : State) :
    (s.hailAnswered a must identity reason).engine = s.engine := by
  unfold State.hailAnswered
  try dsimp only
  split <;> simp

@[simp] theorem State.hailAnswered_host (a : Addr) (must : Option Identity) (identity : Identity) (reason : StationReason) (s : State) :
    (s.hailAnswered a must identity reason).host = s.host := by
  unfold State.hailAnswered
  try dsimp only
  split <;> simp

@[simp] theorem State.hailAnswered_unit (a : Addr) (must : Option Identity) (identity : Identity) (reason : StationReason) (s : State) :
    (s.hailAnswered a must identity reason).unit = s.unit := by
  unfold State.hailAnswered
  try dsimp only
  split <;> simp

@[simp] theorem State.hailAnswered_fallback (a : Addr) (must : Option Identity) (identity : Identity) (reason : StationReason) (s : State) :
    (s.hailAnswered a must identity reason).fallback = s.fallback := by
  unfold State.hailAnswered
  try dsimp only
  split <;> simp

@[simp] theorem State.hailAnswered_clock (a : Addr) (must : Option Identity) (identity : Identity) (reason : StationReason) (s : State) :
    (s.hailAnswered a must identity reason).clock = s.clock := by
  unfold State.hailAnswered
  try dsimp only
  split <;> simp

@[simp] theorem State.hailAnswered_subMs (a : Addr) (must : Option Identity) (identity : Identity) (reason : StationReason) (s : State) :
    (s.hailAnswered a must identity reason).subMs = s.subMs := by
  unfold State.hailAnswered
  try dsimp only
  split <;> simp

@[simp] theorem State.hailAnswered_power (a : Addr) (must : Option Identity) (identity : Identity) (reason : StationReason) (s : State) :
    (s.hailAnswered a must identity reason).power = s.power := by
  unfold State.hailAnswered
  try dsimp only
  split <;> simp

@[simp] theorem State.hailAnswered_pending (a : Addr) (must : Option Identity) (identity : Identity) (reason : StationReason) (s : State) :
    (s.hailAnswered a must identity reason).pending = s.pending := by
  unfold State.hailAnswered
  try dsimp only
  split <;> simp

@[simp] theorem State.hailAnswered_held (a : Addr) (must : Option Identity) (identity : Identity) (reason : StationReason) (s : State) :
    (s.hailAnswered a must identity reason).held = s.held := by
  simp [State.held]

/-! `probeAgain` touches only: stations. -/

@[simp] theorem State.probeAgain_requests (a : Addr) (s : State) :
    (s.probeAgain a).requests = s.requests := by
  simp [State.probeAgain]

@[simp] theorem State.probeAgain_engine (a : Addr) (s : State) :
    (s.probeAgain a).engine = s.engine := by
  simp [State.probeAgain]

@[simp] theorem State.probeAgain_reports (a : Addr) (s : State) :
    (s.probeAgain a).reports = s.reports := by
  simp [State.probeAgain]

@[simp] theorem State.probeAgain_host (a : Addr) (s : State) :
    (s.probeAgain a).host = s.host := by
  simp [State.probeAgain]

@[simp] theorem State.probeAgain_unit (a : Addr) (s : State) :
    (s.probeAgain a).unit = s.unit := by
  simp [State.probeAgain]

@[simp] theorem State.probeAgain_fallback (a : Addr) (s : State) :
    (s.probeAgain a).fallback = s.fallback := by
  simp [State.probeAgain]

@[simp] theorem State.probeAgain_clock (a : Addr) (s : State) :
    (s.probeAgain a).clock = s.clock := by
  simp [State.probeAgain]

@[simp] theorem State.probeAgain_subMs (a : Addr) (s : State) :
    (s.probeAgain a).subMs = s.subMs := by
  simp [State.probeAgain]

@[simp] theorem State.probeAgain_power (a : Addr) (s : State) :
    (s.probeAgain a).power = s.power := by
  simp [State.probeAgain]

@[simp] theorem State.probeAgain_pending (a : Addr) (s : State) :
    (s.probeAgain a).pending = s.pending := by
  simp [State.probeAgain]

@[simp] theorem State.probeAgain_held (a : Addr) (s : State) :
    (s.probeAgain a).held = s.held := by
  simp [State.held]

/-! `missed` touches only: stations, requests, reports. -/

@[simp] theorem State.missed_engine (a : Addr) (s : State) :
    (s.missed a).engine = s.engine := by
  unfold State.missed
  try dsimp only
  split <;> simp

@[simp] theorem State.missed_host (a : Addr) (s : State) :
    (s.missed a).host = s.host := by
  unfold State.missed
  try dsimp only
  split <;> simp

@[simp] theorem State.missed_unit (a : Addr) (s : State) :
    (s.missed a).unit = s.unit := by
  unfold State.missed
  try dsimp only
  split <;> simp

@[simp] theorem State.missed_fallback (a : Addr) (s : State) :
    (s.missed a).fallback = s.fallback := by
  unfold State.missed
  try dsimp only
  split <;> simp

@[simp] theorem State.missed_clock (a : Addr) (s : State) :
    (s.missed a).clock = s.clock := by
  unfold State.missed
  try dsimp only
  split <;> simp

@[simp] theorem State.missed_subMs (a : Addr) (s : State) :
    (s.missed a).subMs = s.subMs := by
  unfold State.missed
  try dsimp only
  split <;> simp

@[simp] theorem State.missed_power (a : Addr) (s : State) :
    (s.missed a).power = s.power := by
  unfold State.missed
  try dsimp only
  split <;> simp

@[simp] theorem State.missed_pending (a : Addr) (s : State) :
    (s.missed a).pending = s.pending := by
  unfold State.missed
  try dsimp only
  split <;> simp

@[simp] theorem State.missed_held (a : Addr) (s : State) :
    (s.missed a).held = s.held := by
  simp [State.held]

/-! `applyOutcome` touches only: stations, requests, reports. -/

@[simp] theorem State.applyOutcome_engine (a : Addr) (d : Delivery) (s : State) :
    (s.applyOutcome a d).engine = s.engine := by
  unfold State.applyOutcome
  try dsimp only
  repeat' split
  all_goals simp

@[simp] theorem State.applyOutcome_host (a : Addr) (d : Delivery) (s : State) :
    (s.applyOutcome a d).host = s.host := by
  unfold State.applyOutcome
  try dsimp only
  repeat' split
  all_goals simp

@[simp] theorem State.applyOutcome_unit (a : Addr) (d : Delivery) (s : State) :
    (s.applyOutcome a d).unit = s.unit := by
  unfold State.applyOutcome
  try dsimp only
  repeat' split
  all_goals simp

@[simp] theorem State.applyOutcome_fallback (a : Addr) (d : Delivery) (s : State) :
    (s.applyOutcome a d).fallback = s.fallback := by
  unfold State.applyOutcome
  try dsimp only
  repeat' split
  all_goals simp

@[simp] theorem State.applyOutcome_clock (a : Addr) (d : Delivery) (s : State) :
    (s.applyOutcome a d).clock = s.clock := by
  unfold State.applyOutcome
  try dsimp only
  repeat' split
  all_goals simp

@[simp] theorem State.applyOutcome_subMs (a : Addr) (d : Delivery) (s : State) :
    (s.applyOutcome a d).subMs = s.subMs := by
  unfold State.applyOutcome
  try dsimp only
  repeat' split
  all_goals simp

@[simp] theorem State.applyOutcome_power (a : Addr) (d : Delivery) (s : State) :
    (s.applyOutcome a d).power = s.power := by
  unfold State.applyOutcome
  try dsimp only
  repeat' split
  all_goals simp

@[simp] theorem State.applyOutcome_pending (a : Addr) (d : Delivery) (s : State) :
    (s.applyOutcome a d).pending = s.pending := by
  unfold State.applyOutcome
  try dsimp only
  repeat' split
  all_goals simp

@[simp] theorem State.applyOutcome_held (a : Addr) (d : Delivery) (s : State) :
    (s.applyOutcome a d).held = s.held := by
  simp [State.held]

/-! `setMissLimit` touches only: stations, requests, reports. -/

@[simp] theorem State.setMissLimit_engine (a : Addr) (limit : Option Nat) (s : State) :
    (s.setMissLimit a limit).engine = s.engine := by
  unfold State.setMissLimit
  try dsimp only
  repeat' split
  all_goals simp

@[simp] theorem State.setMissLimit_host (a : Addr) (limit : Option Nat) (s : State) :
    (s.setMissLimit a limit).host = s.host := by
  unfold State.setMissLimit
  try dsimp only
  repeat' split
  all_goals simp

@[simp] theorem State.setMissLimit_unit (a : Addr) (limit : Option Nat) (s : State) :
    (s.setMissLimit a limit).unit = s.unit := by
  unfold State.setMissLimit
  try dsimp only
  repeat' split
  all_goals simp

@[simp] theorem State.setMissLimit_fallback (a : Addr) (limit : Option Nat) (s : State) :
    (s.setMissLimit a limit).fallback = s.fallback := by
  unfold State.setMissLimit
  try dsimp only
  repeat' split
  all_goals simp

@[simp] theorem State.setMissLimit_clock (a : Addr) (limit : Option Nat) (s : State) :
    (s.setMissLimit a limit).clock = s.clock := by
  unfold State.setMissLimit
  try dsimp only
  repeat' split
  all_goals simp

@[simp] theorem State.setMissLimit_subMs (a : Addr) (limit : Option Nat) (s : State) :
    (s.setMissLimit a limit).subMs = s.subMs := by
  unfold State.setMissLimit
  try dsimp only
  repeat' split
  all_goals simp

@[simp] theorem State.setMissLimit_power (a : Addr) (limit : Option Nat) (s : State) :
    (s.setMissLimit a limit).power = s.power := by
  unfold State.setMissLimit
  try dsimp only
  repeat' split
  all_goals simp

@[simp] theorem State.setMissLimit_pending (a : Addr) (limit : Option Nat) (s : State) :
    (s.setMissLimit a limit).pending = s.pending := by
  unfold State.setMissLimit
  try dsimp only
  repeat' split
  all_goals simp

@[simp] theorem State.setMissLimit_held (a : Addr) (limit : Option Nat) (s : State) :
    (s.setMissLimit a limit).held = s.held := by
  simp [State.held]

/-! `modifyStation` touches only: stations, requests, reports. -/

@[simp] theorem State.modifyStation_engine (p : ModifyParams) (s : State) :
    (s.modifyStation p).engine = s.engine := by
  simp [State.modifyStation]

@[simp] theorem State.modifyStation_host (p : ModifyParams) (s : State) :
    (s.modifyStation p).host = s.host := by
  simp [State.modifyStation]

@[simp] theorem State.modifyStation_unit (p : ModifyParams) (s : State) :
    (s.modifyStation p).unit = s.unit := by
  simp [State.modifyStation]

@[simp] theorem State.modifyStation_fallback (p : ModifyParams) (s : State) :
    (s.modifyStation p).fallback = s.fallback := by
  simp [State.modifyStation]

@[simp] theorem State.modifyStation_clock (p : ModifyParams) (s : State) :
    (s.modifyStation p).clock = s.clock := by
  simp [State.modifyStation]

@[simp] theorem State.modifyStation_subMs (p : ModifyParams) (s : State) :
    (s.modifyStation p).subMs = s.subMs := by
  simp [State.modifyStation]

@[simp] theorem State.modifyStation_power (p : ModifyParams) (s : State) :
    (s.modifyStation p).power = s.power := by
  simp [State.modifyStation]

@[simp] theorem State.modifyStation_pending (p : ModifyParams) (s : State) :
    (s.modifyStation p).pending = s.pending := by
  simp [State.modifyStation]

@[simp] theorem State.modifyStation_held (p : ModifyParams) (s : State) :
    (s.modifyStation p).held = s.held := by
  simp [State.held]

/-! `decideRequest` touches only: requests, reports. -/

@[simp] theorem State.decideRequest_stations (tag : Half) (d : Delivery) (s : State) :
    (s.decideRequest tag d).stations = s.stations := by
  unfold State.decideRequest
  try dsimp only
  repeat' split
  all_goals simp

@[simp] theorem State.decideRequest_engine (tag : Half) (d : Delivery) (s : State) :
    (s.decideRequest tag d).engine = s.engine := by
  unfold State.decideRequest
  try dsimp only
  repeat' split
  all_goals simp

@[simp] theorem State.decideRequest_host (tag : Half) (d : Delivery) (s : State) :
    (s.decideRequest tag d).host = s.host := by
  unfold State.decideRequest
  try dsimp only
  repeat' split
  all_goals simp

@[simp] theorem State.decideRequest_unit (tag : Half) (d : Delivery) (s : State) :
    (s.decideRequest tag d).unit = s.unit := by
  unfold State.decideRequest
  try dsimp only
  repeat' split
  all_goals simp

@[simp] theorem State.decideRequest_fallback (tag : Half) (d : Delivery) (s : State) :
    (s.decideRequest tag d).fallback = s.fallback := by
  unfold State.decideRequest
  try dsimp only
  repeat' split
  all_goals simp

@[simp] theorem State.decideRequest_clock (tag : Half) (d : Delivery) (s : State) :
    (s.decideRequest tag d).clock = s.clock := by
  unfold State.decideRequest
  try dsimp only
  repeat' split
  all_goals simp

@[simp] theorem State.decideRequest_subMs (tag : Half) (d : Delivery) (s : State) :
    (s.decideRequest tag d).subMs = s.subMs := by
  unfold State.decideRequest
  try dsimp only
  repeat' split
  all_goals simp

@[simp] theorem State.decideRequest_power (tag : Half) (d : Delivery) (s : State) :
    (s.decideRequest tag d).power = s.power := by
  unfold State.decideRequest
  try dsimp only
  repeat' split
  all_goals simp

@[simp] theorem State.decideRequest_pending (tag : Half) (d : Delivery) (s : State) :
    (s.decideRequest tag d).pending = s.pending := by
  unfold State.decideRequest
  try dsimp only
  repeat' split
  all_goals simp

@[simp] theorem State.decideRequest_held (tag : Half) (d : Delivery) (s : State) :
    (s.decideRequest tag d).held = s.held := by
  simp [State.held]

@[simp] theorem State.decideRequest_station (tag : Half) (d : Delivery) (s : State) (b : Addr) :
    (s.decideRequest tag d).station b = s.station b := by
  simp [State.station]

/-! `undoRequest` touches only: requests, reports. -/

@[simp] theorem State.undoRequest_stations (tag : Half) (orphaned : Bool) (collision : Option ExOutcome) (s : State) :
    (s.undoRequest tag orphaned collision).stations = s.stations := by
  unfold State.undoRequest
  try dsimp only
  repeat' split
  all_goals simp

@[simp] theorem State.undoRequest_engine (tag : Half) (orphaned : Bool) (collision : Option ExOutcome) (s : State) :
    (s.undoRequest tag orphaned collision).engine = s.engine := by
  unfold State.undoRequest
  try dsimp only
  repeat' split
  all_goals simp

@[simp] theorem State.undoRequest_host (tag : Half) (orphaned : Bool) (collision : Option ExOutcome) (s : State) :
    (s.undoRequest tag orphaned collision).host = s.host := by
  unfold State.undoRequest
  try dsimp only
  repeat' split
  all_goals simp

@[simp] theorem State.undoRequest_unit (tag : Half) (orphaned : Bool) (collision : Option ExOutcome) (s : State) :
    (s.undoRequest tag orphaned collision).unit = s.unit := by
  unfold State.undoRequest
  try dsimp only
  repeat' split
  all_goals simp

@[simp] theorem State.undoRequest_fallback (tag : Half) (orphaned : Bool) (collision : Option ExOutcome) (s : State) :
    (s.undoRequest tag orphaned collision).fallback = s.fallback := by
  unfold State.undoRequest
  try dsimp only
  repeat' split
  all_goals simp

@[simp] theorem State.undoRequest_clock (tag : Half) (orphaned : Bool) (collision : Option ExOutcome) (s : State) :
    (s.undoRequest tag orphaned collision).clock = s.clock := by
  unfold State.undoRequest
  try dsimp only
  repeat' split
  all_goals simp

@[simp] theorem State.undoRequest_subMs (tag : Half) (orphaned : Bool) (collision : Option ExOutcome) (s : State) :
    (s.undoRequest tag orphaned collision).subMs = s.subMs := by
  unfold State.undoRequest
  try dsimp only
  repeat' split
  all_goals simp

@[simp] theorem State.undoRequest_power (tag : Half) (orphaned : Bool) (collision : Option ExOutcome) (s : State) :
    (s.undoRequest tag orphaned collision).power = s.power := by
  unfold State.undoRequest
  try dsimp only
  repeat' split
  all_goals simp

@[simp] theorem State.undoRequest_pending (tag : Half) (orphaned : Bool) (collision : Option ExOutcome) (s : State) :
    (s.undoRequest tag orphaned collision).pending = s.pending := by
  unfold State.undoRequest
  try dsimp only
  repeat' split
  all_goals simp

@[simp] theorem State.undoRequest_held (tag : Half) (orphaned : Bool) (collision : Option ExOutcome) (s : State) :
    (s.undoRequest tag orphaned collision).held = s.held := by
  simp [State.held]

@[simp] theorem State.undoRequest_station (tag : Half) (orphaned : Bool) (collision : Option ExOutcome) (s : State) (b : Addr) :
    (s.undoRequest tag orphaned collision).station b = s.station b := by
  simp [State.station]

/-! `undoDue` touches only: stations. -/

@[simp] theorem State.undoDue_requests (record : ExchangeRecord) (s : State) :
    (s.undoDue record).requests = s.requests := by
  unfold State.undoDue
  try dsimp only
  repeat' split
  all_goals simp

@[simp] theorem State.undoDue_engine (record : ExchangeRecord) (s : State) :
    (s.undoDue record).engine = s.engine := by
  unfold State.undoDue
  try dsimp only
  repeat' split
  all_goals simp

@[simp] theorem State.undoDue_reports (record : ExchangeRecord) (s : State) :
    (s.undoDue record).reports = s.reports := by
  unfold State.undoDue
  try dsimp only
  repeat' split
  all_goals simp

@[simp] theorem State.undoDue_host (record : ExchangeRecord) (s : State) :
    (s.undoDue record).host = s.host := by
  unfold State.undoDue
  try dsimp only
  repeat' split
  all_goals simp

@[simp] theorem State.undoDue_unit (record : ExchangeRecord) (s : State) :
    (s.undoDue record).unit = s.unit := by
  unfold State.undoDue
  try dsimp only
  repeat' split
  all_goals simp

@[simp] theorem State.undoDue_fallback (record : ExchangeRecord) (s : State) :
    (s.undoDue record).fallback = s.fallback := by
  unfold State.undoDue
  try dsimp only
  repeat' split
  all_goals simp

@[simp] theorem State.undoDue_clock (record : ExchangeRecord) (s : State) :
    (s.undoDue record).clock = s.clock := by
  unfold State.undoDue
  try dsimp only
  repeat' split
  all_goals simp

@[simp] theorem State.undoDue_subMs (record : ExchangeRecord) (s : State) :
    (s.undoDue record).subMs = s.subMs := by
  unfold State.undoDue
  try dsimp only
  repeat' split
  all_goals simp

@[simp] theorem State.undoDue_power (record : ExchangeRecord) (s : State) :
    (s.undoDue record).power = s.power := by
  unfold State.undoDue
  try dsimp only
  repeat' split
  all_goals simp

@[simp] theorem State.undoDue_pending (record : ExchangeRecord) (s : State) :
    (s.undoDue record).pending = s.pending := by
  unfold State.undoDue
  try dsimp only
  repeat' split
  all_goals simp

@[simp] theorem State.undoDue_held (record : ExchangeRecord) (s : State) :
    (s.undoDue record).held = s.held := by
  simp [State.held]

/-! `cascadeUndone` touches only: requests, reports. -/

@[simp] theorem State.cascadeUndone_stations (record : ExchangeRecord) (s : State) :
    (s.cascadeUndone record).stations = s.stations := by
  unfold State.cascadeUndone
  try dsimp only
  repeat' split
  all_goals simp

@[simp] theorem State.cascadeUndone_engine (record : ExchangeRecord) (s : State) :
    (s.cascadeUndone record).engine = s.engine := by
  unfold State.cascadeUndone
  try dsimp only
  repeat' split
  all_goals simp

@[simp] theorem State.cascadeUndone_host (record : ExchangeRecord) (s : State) :
    (s.cascadeUndone record).host = s.host := by
  unfold State.cascadeUndone
  try dsimp only
  repeat' split
  all_goals simp

@[simp] theorem State.cascadeUndone_unit (record : ExchangeRecord) (s : State) :
    (s.cascadeUndone record).unit = s.unit := by
  unfold State.cascadeUndone
  try dsimp only
  repeat' split
  all_goals simp

@[simp] theorem State.cascadeUndone_fallback (record : ExchangeRecord) (s : State) :
    (s.cascadeUndone record).fallback = s.fallback := by
  unfold State.cascadeUndone
  try dsimp only
  repeat' split
  all_goals simp

@[simp] theorem State.cascadeUndone_clock (record : ExchangeRecord) (s : State) :
    (s.cascadeUndone record).clock = s.clock := by
  unfold State.cascadeUndone
  try dsimp only
  repeat' split
  all_goals simp

@[simp] theorem State.cascadeUndone_subMs (record : ExchangeRecord) (s : State) :
    (s.cascadeUndone record).subMs = s.subMs := by
  unfold State.cascadeUndone
  try dsimp only
  repeat' split
  all_goals simp

@[simp] theorem State.cascadeUndone_power (record : ExchangeRecord) (s : State) :
    (s.cascadeUndone record).power = s.power := by
  unfold State.cascadeUndone
  try dsimp only
  repeat' split
  all_goals simp

@[simp] theorem State.cascadeUndone_pending (record : ExchangeRecord) (s : State) :
    (s.cascadeUndone record).pending = s.pending := by
  unfold State.cascadeUndone
  try dsimp only
  repeat' split
  all_goals simp

@[simp] theorem State.cascadeUndone_held (record : ExchangeRecord) (s : State) :
    (s.cascadeUndone record).held = s.held := by
  simp [State.held]

@[simp] theorem State.cascadeUndone_station (record : ExchangeRecord) (s : State) (b : Addr) :
    (s.cascadeUndone record).station b = s.station b := by
  simp [State.station]

/-! `undoCommitment` touches only: engine, stations, requests, reports. -/

@[simp] theorem State.undoCommitment_host (record : ExchangeRecord) (collision : Option ExOutcome) (s : State) :
    (s.undoCommitment record collision).host = s.host := by
  unfold State.undoCommitment
  try dsimp only
  repeat' split
  all_goals simp

@[simp] theorem State.undoCommitment_unit (record : ExchangeRecord) (collision : Option ExOutcome) (s : State) :
    (s.undoCommitment record collision).unit = s.unit := by
  unfold State.undoCommitment
  try dsimp only
  repeat' split
  all_goals simp

@[simp] theorem State.undoCommitment_fallback (record : ExchangeRecord) (collision : Option ExOutcome) (s : State) :
    (s.undoCommitment record collision).fallback = s.fallback := by
  unfold State.undoCommitment
  try dsimp only
  repeat' split
  all_goals simp

@[simp] theorem State.undoCommitment_clock (record : ExchangeRecord) (collision : Option ExOutcome) (s : State) :
    (s.undoCommitment record collision).clock = s.clock := by
  unfold State.undoCommitment
  try dsimp only
  repeat' split
  all_goals simp

@[simp] theorem State.undoCommitment_subMs (record : ExchangeRecord) (collision : Option ExOutcome) (s : State) :
    (s.undoCommitment record collision).subMs = s.subMs := by
  unfold State.undoCommitment
  try dsimp only
  repeat' split
  all_goals simp

@[simp] theorem State.undoCommitment_power (record : ExchangeRecord) (collision : Option ExOutcome) (s : State) :
    (s.undoCommitment record collision).power = s.power := by
  unfold State.undoCommitment
  try dsimp only
  repeat' split
  all_goals simp

@[simp] theorem State.undoCommitment_pending (record : ExchangeRecord) (collision : Option ExOutcome) (s : State) :
    (s.undoCommitment record collision).pending = s.pending := by
  unfold State.undoCommitment
  try dsimp only
  repeat' split
  all_goals simp

@[simp] theorem State.undoCommitment_held (record : ExchangeRecord) (collision : Option ExOutcome) (s : State) :
    (s.undoCommitment record collision).held = s.held := by
  simp [State.held]

/-! `leaveMaster` touches only: engine, fallback. -/

@[simp] theorem State.leaveMaster_stations (role : LineRole) (phase : FallbackPhase) (s : State) :
    (s.leaveMaster role phase).stations = s.stations := rfl

@[simp] theorem State.leaveMaster_requests (role : LineRole) (phase : FallbackPhase) (s : State) :
    (s.leaveMaster role phase).requests = s.requests := rfl

@[simp] theorem State.leaveMaster_reports (role : LineRole) (phase : FallbackPhase) (s : State) :
    (s.leaveMaster role phase).reports = s.reports := rfl

@[simp] theorem State.leaveMaster_host (role : LineRole) (phase : FallbackPhase) (s : State) :
    (s.leaveMaster role phase).host = s.host := rfl

@[simp] theorem State.leaveMaster_unit (role : LineRole) (phase : FallbackPhase) (s : State) :
    (s.leaveMaster role phase).unit = s.unit := rfl

@[simp] theorem State.leaveMaster_clock (role : LineRole) (phase : FallbackPhase) (s : State) :
    (s.leaveMaster role phase).clock = s.clock := rfl

@[simp] theorem State.leaveMaster_subMs (role : LineRole) (phase : FallbackPhase) (s : State) :
    (s.leaveMaster role phase).subMs = s.subMs := rfl

@[simp] theorem State.leaveMaster_power (role : LineRole) (phase : FallbackPhase) (s : State) :
    (s.leaveMaster role phase).power = s.power := rfl

@[simp] theorem State.leaveMaster_pending (role : LineRole) (phase : FallbackPhase) (s : State) :
    (s.leaveMaster role phase).pending = s.pending := rfl

@[simp] theorem State.leaveMaster_held (role : LineRole) (phase : FallbackPhase) (s : State) :
    (s.leaveMaster role phase).held = s.held := by
  simp [State.held]

@[simp] theorem State.leaveMaster_station (role : LineRole) (phase : FallbackPhase) (s : State) (b : Addr) :
    (s.leaveMaster role phase).station b = s.station b := by
  simp [State.station]

/-! `becomeMaster` touches only: engine, fallback, requests, stations. -/

@[simp] theorem State.becomeMaster_reports (s : State) :
    (s.becomeMaster).reports = s.reports := by
  simp [State.becomeMaster]

@[simp] theorem State.becomeMaster_host (s : State) :
    (s.becomeMaster).host = s.host := by
  simp [State.becomeMaster]

@[simp] theorem State.becomeMaster_unit (s : State) :
    (s.becomeMaster).unit = s.unit := by
  simp [State.becomeMaster]

@[simp] theorem State.becomeMaster_clock (s : State) :
    (s.becomeMaster).clock = s.clock := by
  simp [State.becomeMaster]

@[simp] theorem State.becomeMaster_subMs (s : State) :
    (s.becomeMaster).subMs = s.subMs := by
  simp [State.becomeMaster]

@[simp] theorem State.becomeMaster_power (s : State) :
    (s.becomeMaster).power = s.power := by
  simp [State.becomeMaster]

@[simp] theorem State.becomeMaster_pending (s : State) :
    (s.becomeMaster).pending = s.pending := by
  simp [State.becomeMaster]

@[simp] theorem State.becomeMaster_held (s : State) :
    (s.becomeMaster).held = s.held := by
  simp [State.held]

/-! `endFallback` touches only: engine, fallback, reports. -/

@[simp] theorem State.endFallback_stations (detail : LineDetail) (s : State) :
    (s.endFallback detail).stations = s.stations := rfl

@[simp] theorem State.endFallback_requests (detail : LineDetail) (s : State) :
    (s.endFallback detail).requests = s.requests := rfl

@[simp] theorem State.endFallback_host (detail : LineDetail) (s : State) :
    (s.endFallback detail).host = s.host := rfl

@[simp] theorem State.endFallback_unit (detail : LineDetail) (s : State) :
    (s.endFallback detail).unit = s.unit := rfl

@[simp] theorem State.endFallback_clock (detail : LineDetail) (s : State) :
    (s.endFallback detail).clock = s.clock := rfl

@[simp] theorem State.endFallback_subMs (detail : LineDetail) (s : State) :
    (s.endFallback detail).subMs = s.subMs := rfl

@[simp] theorem State.endFallback_power (detail : LineDetail) (s : State) :
    (s.endFallback detail).power = s.power := rfl

@[simp] theorem State.endFallback_pending (detail : LineDetail) (s : State) :
    (s.endFallback detail).pending = s.pending := rfl

@[simp] theorem State.endFallback_held (detail : LineDetail) (s : State) :
    (s.endFallback detail).held = s.held := by
  simp [State.held]

@[simp] theorem State.endFallback_station (detail : LineDetail) (s : State) (b : Addr) :
    (s.endFallback detail).station b = s.station b := by
  simp [State.station]

/-! `advanceFallback` touches only: engine, fallback, reports. -/

@[simp] theorem State.advanceFallback_stations (s : State) :
    (s.advanceFallback).stations = s.stations := by
  unfold State.advanceFallback
  try dsimp only
  repeat' split
  all_goals simp

@[simp] theorem State.advanceFallback_requests (s : State) :
    (s.advanceFallback).requests = s.requests := by
  unfold State.advanceFallback
  try dsimp only
  repeat' split
  all_goals simp

@[simp] theorem State.advanceFallback_host (s : State) :
    (s.advanceFallback).host = s.host := by
  unfold State.advanceFallback
  try dsimp only
  repeat' split
  all_goals simp

@[simp] theorem State.advanceFallback_unit (s : State) :
    (s.advanceFallback).unit = s.unit := by
  unfold State.advanceFallback
  try dsimp only
  repeat' split
  all_goals simp

@[simp] theorem State.advanceFallback_clock (s : State) :
    (s.advanceFallback).clock = s.clock := by
  unfold State.advanceFallback
  try dsimp only
  repeat' split
  all_goals simp

@[simp] theorem State.advanceFallback_subMs (s : State) :
    (s.advanceFallback).subMs = s.subMs := by
  unfold State.advanceFallback
  try dsimp only
  repeat' split
  all_goals simp

@[simp] theorem State.advanceFallback_power (s : State) :
    (s.advanceFallback).power = s.power := by
  unfold State.advanceFallback
  try dsimp only
  repeat' split
  all_goals simp

@[simp] theorem State.advanceFallback_pending (s : State) :
    (s.advanceFallback).pending = s.pending := by
  unfold State.advanceFallback
  try dsimp only
  repeat' split
  all_goals simp

@[simp] theorem State.advanceFallback_held (s : State) :
    (s.advanceFallback).held = s.held := by
  simp [State.held]

@[simp] theorem State.advanceFallback_station (s : State) (b : Addr) :
    (s.advanceFallback).station b = s.station b := by
  simp [State.station]

/-! `dispatch` touches only: stations, requests, reports. -/

@[simp] theorem State.dispatch_engine (d : Delivery) (s : State) :
    (s.dispatch d).engine = s.engine := by
  unfold State.dispatch
  try dsimp only
  repeat' split
  all_goals simp

@[simp] theorem State.dispatch_host (d : Delivery) (s : State) :
    (s.dispatch d).host = s.host := by
  unfold State.dispatch
  try dsimp only
  repeat' split
  all_goals simp

@[simp] theorem State.dispatch_unit (d : Delivery) (s : State) :
    (s.dispatch d).unit = s.unit := by
  unfold State.dispatch
  try dsimp only
  repeat' split
  all_goals simp

@[simp] theorem State.dispatch_fallback (d : Delivery) (s : State) :
    (s.dispatch d).fallback = s.fallback := by
  unfold State.dispatch
  try dsimp only
  repeat' split
  all_goals simp

@[simp] theorem State.dispatch_clock (d : Delivery) (s : State) :
    (s.dispatch d).clock = s.clock := by
  unfold State.dispatch
  try dsimp only
  repeat' split
  all_goals simp

@[simp] theorem State.dispatch_subMs (d : Delivery) (s : State) :
    (s.dispatch d).subMs = s.subMs := by
  unfold State.dispatch
  try dsimp only
  repeat' split
  all_goals simp

@[simp] theorem State.dispatch_power (d : Delivery) (s : State) :
    (s.dispatch d).power = s.power := by
  unfold State.dispatch
  try dsimp only
  repeat' split
  all_goals simp

@[simp] theorem State.dispatch_pending (d : Delivery) (s : State) :
    (s.dispatch d).pending = s.pending := by
  unfold State.dispatch
  try dsimp only
  repeat' split
  all_goals simp

@[simp] theorem State.dispatch_held (d : Delivery) (s : State) :
    (s.dispatch d).held = s.held := by
  simp [State.held]

/-! `afterCompletion` touches only: engine, fallback, reports, requests, stations. -/

@[simp] theorem State.afterCompletion_host (record : ExchangeRecord) (s : State) :
    (s.afterCompletion record).host = s.host := by
  unfold State.afterCompletion
  try dsimp only
  repeat' split
  all_goals simp

@[simp] theorem State.afterCompletion_unit (record : ExchangeRecord) (s : State) :
    (s.afterCompletion record).unit = s.unit := by
  unfold State.afterCompletion
  try dsimp only
  repeat' split
  all_goals simp

@[simp] theorem State.afterCompletion_clock (record : ExchangeRecord) (s : State) :
    (s.afterCompletion record).clock = s.clock := by
  unfold State.afterCompletion
  try dsimp only
  repeat' split
  all_goals simp

@[simp] theorem State.afterCompletion_subMs (record : ExchangeRecord) (s : State) :
    (s.afterCompletion record).subMs = s.subMs := by
  unfold State.afterCompletion
  try dsimp only
  repeat' split
  all_goals simp

@[simp] theorem State.afterCompletion_power (record : ExchangeRecord) (s : State) :
    (s.afterCompletion record).power = s.power := by
  unfold State.afterCompletion
  try dsimp only
  repeat' split
  all_goals simp

@[simp] theorem State.afterCompletion_pending (record : ExchangeRecord) (s : State) :
    (s.afterCompletion record).pending = s.pending := by
  unfold State.afterCompletion
  try dsimp only
  repeat' split
  all_goals simp

@[simp] theorem State.afterCompletion_held (record : ExchangeRecord) (s : State) :
    (s.afterCompletion record).held = s.held := by
  simp [State.held]

/-! `completeExchange` touches only: engine, fallback, reports, requests, stations. -/

@[simp] theorem State.completeExchange_host (outcome : ExOutcome) (data : List Byte) (s : State) :
    (s.completeExchange outcome data).host = s.host := by
  unfold State.completeExchange
  try dsimp only
  repeat' split
  all_goals simp

@[simp] theorem State.completeExchange_unit (outcome : ExOutcome) (data : List Byte) (s : State) :
    (s.completeExchange outcome data).unit = s.unit := by
  unfold State.completeExchange
  try dsimp only
  repeat' split
  all_goals simp

@[simp] theorem State.completeExchange_clock (outcome : ExOutcome) (data : List Byte) (s : State) :
    (s.completeExchange outcome data).clock = s.clock := by
  unfold State.completeExchange
  try dsimp only
  repeat' split
  all_goals simp

@[simp] theorem State.completeExchange_subMs (outcome : ExOutcome) (data : List Byte) (s : State) :
    (s.completeExchange outcome data).subMs = s.subMs := by
  unfold State.completeExchange
  try dsimp only
  repeat' split
  all_goals simp

@[simp] theorem State.completeExchange_power (outcome : ExOutcome) (data : List Byte) (s : State) :
    (s.completeExchange outcome data).power = s.power := by
  unfold State.completeExchange
  try dsimp only
  repeat' split
  all_goals simp

@[simp] theorem State.completeExchange_pending (outcome : ExOutcome) (data : List Byte) (s : State) :
    (s.completeExchange outcome data).pending = s.pending := by
  unfold State.completeExchange
  try dsimp only
  repeat' split
  all_goals simp

@[simp] theorem State.completeExchange_held (outcome : ExOutcome) (data : List Byte) (s : State) :
    (s.completeExchange outcome data).held = s.held := by
  simp [State.held]

/-! `contentionRole` touches only: engine, fallback, reports. -/

@[simp] theorem State.contentionRole_stations (detail : CollisionDetail) (s : State) :
    (s.contentionRole detail).stations = s.stations := by
  unfold State.contentionRole
  try dsimp only
  repeat' split
  all_goals simp

@[simp] theorem State.contentionRole_requests (detail : CollisionDetail) (s : State) :
    (s.contentionRole detail).requests = s.requests := by
  unfold State.contentionRole
  try dsimp only
  repeat' split
  all_goals simp

@[simp] theorem State.contentionRole_host (detail : CollisionDetail) (s : State) :
    (s.contentionRole detail).host = s.host := by
  unfold State.contentionRole
  try dsimp only
  repeat' split
  all_goals simp

@[simp] theorem State.contentionRole_unit (detail : CollisionDetail) (s : State) :
    (s.contentionRole detail).unit = s.unit := by
  unfold State.contentionRole
  try dsimp only
  repeat' split
  all_goals simp

@[simp] theorem State.contentionRole_clock (detail : CollisionDetail) (s : State) :
    (s.contentionRole detail).clock = s.clock := by
  unfold State.contentionRole
  try dsimp only
  repeat' split
  all_goals simp

@[simp] theorem State.contentionRole_subMs (detail : CollisionDetail) (s : State) :
    (s.contentionRole detail).subMs = s.subMs := by
  unfold State.contentionRole
  try dsimp only
  repeat' split
  all_goals simp

@[simp] theorem State.contentionRole_power (detail : CollisionDetail) (s : State) :
    (s.contentionRole detail).power = s.power := by
  unfold State.contentionRole
  try dsimp only
  repeat' split
  all_goals simp

@[simp] theorem State.contentionRole_pending (detail : CollisionDetail) (s : State) :
    (s.contentionRole detail).pending = s.pending := by
  unfold State.contentionRole
  try dsimp only
  repeat' split
  all_goals simp

@[simp] theorem State.contentionRole_held (detail : CollisionDetail) (s : State) :
    (s.contentionRole detail).held = s.held := by
  simp [State.held]

@[simp] theorem State.contentionRole_station (detail : CollisionDetail) (s : State) (b : Addr) :
    (s.contentionRole detail).station b = s.station b := by
  simp [State.station]

/-! `countContention` touches only: engine. -/

@[simp] theorem State.countContention_stations (s : State) :
    (s.countContention).stations = s.stations := rfl

@[simp] theorem State.countContention_requests (s : State) :
    (s.countContention).requests = s.requests := rfl

@[simp] theorem State.countContention_reports (s : State) :
    (s.countContention).reports = s.reports := rfl

@[simp] theorem State.countContention_host (s : State) :
    (s.countContention).host = s.host := rfl

@[simp] theorem State.countContention_unit (s : State) :
    (s.countContention).unit = s.unit := rfl

@[simp] theorem State.countContention_fallback (s : State) :
    (s.countContention).fallback = s.fallback := rfl

@[simp] theorem State.countContention_clock (s : State) :
    (s.countContention).clock = s.clock := rfl

@[simp] theorem State.countContention_subMs (s : State) :
    (s.countContention).subMs = s.subMs := rfl

@[simp] theorem State.countContention_power (s : State) :
    (s.countContention).power = s.power := rfl

@[simp] theorem State.countContention_pending (s : State) :
    (s.countContention).pending = s.pending := rfl

@[simp] theorem State.countContention_held (s : State) :
    (s.countContention).held = s.held := by
  simp [State.held]

@[simp] theorem State.countContention_station (s : State) (b : Addr) :
    (s.countContention).station b = s.station b := by
  simp [State.station]

/-! `collide` touches only: engine, fallback, reports, requests, stations. -/

@[simp] theorem State.collide_host (detail : CollisionDetail) (s : State) :
    (s.collide detail).host = s.host := by
  unfold State.collide
  try dsimp only
  repeat' split
  all_goals simp

@[simp] theorem State.collide_unit (detail : CollisionDetail) (s : State) :
    (s.collide detail).unit = s.unit := by
  unfold State.collide
  try dsimp only
  repeat' split
  all_goals simp

@[simp] theorem State.collide_clock (detail : CollisionDetail) (s : State) :
    (s.collide detail).clock = s.clock := by
  unfold State.collide
  try dsimp only
  repeat' split
  all_goals simp

@[simp] theorem State.collide_subMs (detail : CollisionDetail) (s : State) :
    (s.collide detail).subMs = s.subMs := by
  unfold State.collide
  try dsimp only
  repeat' split
  all_goals simp

@[simp] theorem State.collide_power (detail : CollisionDetail) (s : State) :
    (s.collide detail).power = s.power := by
  unfold State.collide
  try dsimp only
  repeat' split
  all_goals simp

@[simp] theorem State.collide_pending (detail : CollisionDetail) (s : State) :
    (s.collide detail).pending = s.pending := by
  unfold State.collide
  try dsimp only
  repeat' split
  all_goals simp

@[simp] theorem State.collide_held (detail : CollisionDetail) (s : State) :
    (s.collide detail).held = s.held := by
  simp [State.held]

/-! `idleContention` touches only: engine, fallback, reports. -/

@[simp] theorem State.idleContention_stations (s : State) :
    (s.idleContention).stations = s.stations := by
  simp [State.idleContention]

@[simp] theorem State.idleContention_requests (s : State) :
    (s.idleContention).requests = s.requests := by
  simp [State.idleContention]

@[simp] theorem State.idleContention_host (s : State) :
    (s.idleContention).host = s.host := by
  simp [State.idleContention]

@[simp] theorem State.idleContention_unit (s : State) :
    (s.idleContention).unit = s.unit := by
  simp [State.idleContention]

@[simp] theorem State.idleContention_clock (s : State) :
    (s.idleContention).clock = s.clock := by
  simp [State.idleContention]

@[simp] theorem State.idleContention_subMs (s : State) :
    (s.idleContention).subMs = s.subMs := by
  simp [State.idleContention]

@[simp] theorem State.idleContention_power (s : State) :
    (s.idleContention).power = s.power := by
  simp [State.idleContention]

@[simp] theorem State.idleContention_pending (s : State) :
    (s.idleContention).pending = s.pending := by
  simp [State.idleContention]

@[simp] theorem State.idleContention_held (s : State) :
    (s.idleContention).held = s.held := by
  simp [State.held]

@[simp] theorem State.idleContention_station (s : State) (b : Addr) :
    (s.idleContention).station b = s.station b := by
  simp [State.station]

/-! `setPhase` touches only: engine. -/

@[simp] theorem State.setPhase_stations (phase : Phase) (s : State) :
    (s.setPhase phase).stations = s.stations := rfl

@[simp] theorem State.setPhase_requests (phase : Phase) (s : State) :
    (s.setPhase phase).requests = s.requests := rfl

@[simp] theorem State.setPhase_reports (phase : Phase) (s : State) :
    (s.setPhase phase).reports = s.reports := rfl

@[simp] theorem State.setPhase_host (phase : Phase) (s : State) :
    (s.setPhase phase).host = s.host := rfl

@[simp] theorem State.setPhase_unit (phase : Phase) (s : State) :
    (s.setPhase phase).unit = s.unit := rfl

@[simp] theorem State.setPhase_fallback (phase : Phase) (s : State) :
    (s.setPhase phase).fallback = s.fallback := rfl

@[simp] theorem State.setPhase_clock (phase : Phase) (s : State) :
    (s.setPhase phase).clock = s.clock := rfl

@[simp] theorem State.setPhase_subMs (phase : Phase) (s : State) :
    (s.setPhase phase).subMs = s.subMs := rfl

@[simp] theorem State.setPhase_power (phase : Phase) (s : State) :
    (s.setPhase phase).power = s.power := rfl

@[simp] theorem State.setPhase_pending (phase : Phase) (s : State) :
    (s.setPhase phase).pending = s.pending := rfl

@[simp] theorem State.setPhase_held (phase : Phase) (s : State) :
    (s.setPhase phase).held = s.held := by
  simp [State.held]

@[simp] theorem State.setPhase_station (phase : Phase) (s : State) (b : Addr) :
    (s.setPhase phase).station b = s.station b := by
  simp [State.station]

/-! `setFramer` touches only: engine. -/

@[simp] theorem State.setFramer_stations (f : Framer) (s : State) :
    (s.setFramer f).stations = s.stations := rfl

@[simp] theorem State.setFramer_requests (f : Framer) (s : State) :
    (s.setFramer f).requests = s.requests := rfl

@[simp] theorem State.setFramer_reports (f : Framer) (s : State) :
    (s.setFramer f).reports = s.reports := rfl

@[simp] theorem State.setFramer_host (f : Framer) (s : State) :
    (s.setFramer f).host = s.host := rfl

@[simp] theorem State.setFramer_unit (f : Framer) (s : State) :
    (s.setFramer f).unit = s.unit := rfl

@[simp] theorem State.setFramer_fallback (f : Framer) (s : State) :
    (s.setFramer f).fallback = s.fallback := rfl

@[simp] theorem State.setFramer_clock (f : Framer) (s : State) :
    (s.setFramer f).clock = s.clock := rfl

@[simp] theorem State.setFramer_subMs (f : Framer) (s : State) :
    (s.setFramer f).subMs = s.subMs := rfl

@[simp] theorem State.setFramer_power (f : Framer) (s : State) :
    (s.setFramer f).power = s.power := rfl

@[simp] theorem State.setFramer_pending (f : Framer) (s : State) :
    (s.setFramer f).pending = s.pending := rfl

@[simp] theorem State.setFramer_held (f : Framer) (s : State) :
    (s.setFramer f).held = s.held := by
  simp [State.held]

@[simp] theorem State.setFramer_station (f : Framer) (s : State) (b : Addr) :
    (s.setFramer f).station b = s.station b := by
  simp [State.station]

/-! `callSent` touches only: engine. -/

@[simp] theorem State.callSent_stations (kind : CallKind) (s : State) :
    (s.callSent kind).stations = s.stations := rfl

@[simp] theorem State.callSent_requests (kind : CallKind) (s : State) :
    (s.callSent kind).requests = s.requests := rfl

@[simp] theorem State.callSent_reports (kind : CallKind) (s : State) :
    (s.callSent kind).reports = s.reports := rfl

@[simp] theorem State.callSent_host (kind : CallKind) (s : State) :
    (s.callSent kind).host = s.host := rfl

@[simp] theorem State.callSent_unit (kind : CallKind) (s : State) :
    (s.callSent kind).unit = s.unit := rfl

@[simp] theorem State.callSent_fallback (kind : CallKind) (s : State) :
    (s.callSent kind).fallback = s.fallback := rfl

@[simp] theorem State.callSent_clock (kind : CallKind) (s : State) :
    (s.callSent kind).clock = s.clock := rfl

@[simp] theorem State.callSent_subMs (kind : CallKind) (s : State) :
    (s.callSent kind).subMs = s.subMs := rfl

@[simp] theorem State.callSent_power (kind : CallKind) (s : State) :
    (s.callSent kind).power = s.power := rfl

@[simp] theorem State.callSent_pending (kind : CallKind) (s : State) :
    (s.callSent kind).pending = s.pending := rfl

@[simp] theorem State.callSent_held (kind : CallKind) (s : State) :
    (s.callSent kind).held = s.held := by
  simp [State.held]

@[simp] theorem State.callSent_station (kind : CallKind) (s : State) (b : Addr) :
    (s.callSent kind).station b = s.station b := by
  simp [State.station]

/-! `judgeStart` touches only: engine, fallback, reports, requests, stations. -/

@[simp] theorem State.judgeStart_host (ch : RxChar) (s : State) :
    (s.judgeStart ch).host = s.host := by
  unfold State.judgeStart
  try dsimp only
  repeat' split
  all_goals simp

@[simp] theorem State.judgeStart_unit (ch : RxChar) (s : State) :
    (s.judgeStart ch).unit = s.unit := by
  unfold State.judgeStart
  try dsimp only
  repeat' split
  all_goals simp

@[simp] theorem State.judgeStart_clock (ch : RxChar) (s : State) :
    (s.judgeStart ch).clock = s.clock := by
  unfold State.judgeStart
  try dsimp only
  repeat' split
  all_goals simp

@[simp] theorem State.judgeStart_subMs (ch : RxChar) (s : State) :
    (s.judgeStart ch).subMs = s.subMs := by
  unfold State.judgeStart
  try dsimp only
  repeat' split
  all_goals simp

@[simp] theorem State.judgeStart_power (ch : RxChar) (s : State) :
    (s.judgeStart ch).power = s.power := by
  unfold State.judgeStart
  try dsimp only
  repeat' split
  all_goals simp

@[simp] theorem State.judgeStart_pending (ch : RxChar) (s : State) :
    (s.judgeStart ch).pending = s.pending := by
  unfold State.judgeStart
  try dsimp only
  repeat' split
  all_goals simp

@[simp] theorem State.judgeStart_held (ch : RxChar) (s : State) :
    (s.judgeStart ch).held = s.held := by
  simp [State.held]

/-! `replyFault` touches only: engine, fallback, reports, requests, stations. -/

@[simp] theorem State.replyFault_host (detail : GarbledDetail) (s : State) :
    (s.replyFault detail).host = s.host := by
  unfold State.replyFault
  try dsimp only
  repeat' split
  all_goals simp

@[simp] theorem State.replyFault_unit (detail : GarbledDetail) (s : State) :
    (s.replyFault detail).unit = s.unit := by
  unfold State.replyFault
  try dsimp only
  repeat' split
  all_goals simp

@[simp] theorem State.replyFault_clock (detail : GarbledDetail) (s : State) :
    (s.replyFault detail).clock = s.clock := by
  unfold State.replyFault
  try dsimp only
  repeat' split
  all_goals simp

@[simp] theorem State.replyFault_subMs (detail : GarbledDetail) (s : State) :
    (s.replyFault detail).subMs = s.subMs := by
  unfold State.replyFault
  try dsimp only
  repeat' split
  all_goals simp

@[simp] theorem State.replyFault_power (detail : GarbledDetail) (s : State) :
    (s.replyFault detail).power = s.power := by
  unfold State.replyFault
  try dsimp only
  repeat' split
  all_goals simp

@[simp] theorem State.replyFault_pending (detail : GarbledDetail) (s : State) :
    (s.replyFault detail).pending = s.pending := by
  unfold State.replyFault
  try dsimp only
  repeat' split
  all_goals simp

@[simp] theorem State.replyFault_held (detail : GarbledDetail) (s : State) :
    (s.replyFault detail).held = s.held := by
  simp [State.held]

/-! `replyComplete` touches only: engine, fallback, reports, requests, stations. -/

@[simp] theorem State.replyComplete_host (chars : List Byte) (s : State) :
    (s.replyComplete chars).host = s.host := by
  unfold State.replyComplete
  try dsimp only
  repeat' split
  all_goals simp

@[simp] theorem State.replyComplete_unit (chars : List Byte) (s : State) :
    (s.replyComplete chars).unit = s.unit := by
  unfold State.replyComplete
  try dsimp only
  repeat' split
  all_goals simp

@[simp] theorem State.replyComplete_clock (chars : List Byte) (s : State) :
    (s.replyComplete chars).clock = s.clock := by
  unfold State.replyComplete
  try dsimp only
  repeat' split
  all_goals simp

@[simp] theorem State.replyComplete_subMs (chars : List Byte) (s : State) :
    (s.replyComplete chars).subMs = s.subMs := by
  unfold State.replyComplete
  try dsimp only
  repeat' split
  all_goals simp

@[simp] theorem State.replyComplete_power (chars : List Byte) (s : State) :
    (s.replyComplete chars).power = s.power := by
  unfold State.replyComplete
  try dsimp only
  repeat' split
  all_goals simp

@[simp] theorem State.replyComplete_pending (chars : List Byte) (s : State) :
    (s.replyComplete chars).pending = s.pending := by
  unfold State.replyComplete
  try dsimp only
  repeat' split
  all_goals simp

@[simp] theorem State.replyComplete_held (chars : List Byte) (s : State) :
    (s.replyComplete chars).held = s.held := by
  simp [State.held]

/-! `toHunting` touches only: host. -/

@[simp] theorem State.toHunting_stations (s : State) :
    (s.toHunting).stations = s.stations := rfl

@[simp] theorem State.toHunting_requests (s : State) :
    (s.toHunting).requests = s.requests := rfl

@[simp] theorem State.toHunting_engine (s : State) :
    (s.toHunting).engine = s.engine := rfl

@[simp] theorem State.toHunting_reports (s : State) :
    (s.toHunting).reports = s.reports := rfl

@[simp] theorem State.toHunting_unit (s : State) :
    (s.toHunting).unit = s.unit := rfl

@[simp] theorem State.toHunting_fallback (s : State) :
    (s.toHunting).fallback = s.fallback := rfl

@[simp] theorem State.toHunting_clock (s : State) :
    (s.toHunting).clock = s.clock := rfl

@[simp] theorem State.toHunting_subMs (s : State) :
    (s.toHunting).subMs = s.subMs := rfl

@[simp] theorem State.toHunting_power (s : State) :
    (s.toHunting).power = s.power := rfl

@[simp] theorem State.toHunting_pending (s : State) :
    (s.toHunting).pending = s.pending := rfl

@[simp] theorem State.toHunting_held (s : State) :
    (s.toHunting).held = s.held := by
  simp [State.held]

@[simp] theorem State.toHunting_station (s : State) (b : Addr) :
    (s.toHunting).station b = s.station b := by
  simp [State.station]

/-! `placeReady` touches only: host. -/

@[simp] theorem State.placeReady_stations (f : CommandFrame) (s : State) :
    (s.placeReady f).stations = s.stations := by
  unfold State.placeReady
  split <;> rfl

@[simp] theorem State.placeReady_requests (f : CommandFrame) (s : State) :
    (s.placeReady f).requests = s.requests := by
  unfold State.placeReady
  split <;> rfl

@[simp] theorem State.placeReady_engine (f : CommandFrame) (s : State) :
    (s.placeReady f).engine = s.engine := by
  unfold State.placeReady
  split <;> rfl

@[simp] theorem State.placeReady_reports (f : CommandFrame) (s : State) :
    (s.placeReady f).reports = s.reports := by
  unfold State.placeReady
  split <;> rfl

@[simp] theorem State.placeReady_unit (f : CommandFrame) (s : State) :
    (s.placeReady f).unit = s.unit := by
  unfold State.placeReady
  split <;> rfl

@[simp] theorem State.placeReady_fallback (f : CommandFrame) (s : State) :
    (s.placeReady f).fallback = s.fallback := by
  unfold State.placeReady
  split <;> rfl

@[simp] theorem State.placeReady_clock (f : CommandFrame) (s : State) :
    (s.placeReady f).clock = s.clock := by
  unfold State.placeReady
  split <;> rfl

@[simp] theorem State.placeReady_subMs (f : CommandFrame) (s : State) :
    (s.placeReady f).subMs = s.subMs := by
  unfold State.placeReady
  split <;> rfl

@[simp] theorem State.placeReady_power (f : CommandFrame) (s : State) :
    (s.placeReady f).power = s.power := by
  unfold State.placeReady
  split <;> rfl

@[simp] theorem State.placeReady_pending (f : CommandFrame) (s : State) :
    (s.placeReady f).pending = s.pending := by
  unfold State.placeReady
  split <;> rfl

@[simp] theorem State.placeReady_held (f : CommandFrame) (s : State) :
    (s.placeReady f).held = s.held := by
  simp [State.held]

@[simp] theorem State.placeReady_station (f : CommandFrame) (s : State) (b : Addr) :
    (s.placeReady f).station b = s.station b := by
  simp [State.station]

/-! `applyAck` touches only: reports, requests. -/

@[simp] theorem State.applyAck_stations (q : Byte) (s : State) :
    (s.applyAck q).stations = s.stations := by
  unfold State.applyAck
  try dsimp only
  split <;> simp

@[simp] theorem State.applyAck_engine (q : Byte) (s : State) :
    (s.applyAck q).engine = s.engine := by
  unfold State.applyAck
  try dsimp only
  split <;> simp

@[simp] theorem State.applyAck_host (q : Byte) (s : State) :
    (s.applyAck q).host = s.host := by
  unfold State.applyAck
  try dsimp only
  split <;> simp

@[simp] theorem State.applyAck_unit (q : Byte) (s : State) :
    (s.applyAck q).unit = s.unit := by
  unfold State.applyAck
  try dsimp only
  split <;> simp

@[simp] theorem State.applyAck_fallback (q : Byte) (s : State) :
    (s.applyAck q).fallback = s.fallback := by
  unfold State.applyAck
  try dsimp only
  split <;> simp

@[simp] theorem State.applyAck_clock (q : Byte) (s : State) :
    (s.applyAck q).clock = s.clock := by
  unfold State.applyAck
  try dsimp only
  split <;> simp

@[simp] theorem State.applyAck_subMs (q : Byte) (s : State) :
    (s.applyAck q).subMs = s.subMs := by
  unfold State.applyAck
  try dsimp only
  split <;> simp

@[simp] theorem State.applyAck_power (q : Byte) (s : State) :
    (s.applyAck q).power = s.power := by
  unfold State.applyAck
  try dsimp only
  split <;> simp

@[simp] theorem State.applyAck_pending (q : Byte) (s : State) :
    (s.applyAck q).pending = s.pending := by
  unfold State.applyAck
  try dsimp only
  split <;> simp

@[simp] theorem State.applyAck_held (q : Byte) (s : State) :
    (s.applyAck q).held = s.held := by
  simp [State.held]

@[simp] theorem State.applyAck_station (q : Byte) (s : State) (b : Addr) :
    (s.applyAck q).station b = s.station b := by
  simp [State.station]

/-! `respond` touches only: host, unit. -/

@[simp] theorem State.respond_stations (r : Response) (s : State) :
    (s.respond r).stations = s.stations := rfl

@[simp] theorem State.respond_requests (r : Response) (s : State) :
    (s.respond r).requests = s.requests := rfl

@[simp] theorem State.respond_engine (r : Response) (s : State) :
    (s.respond r).engine = s.engine := rfl

@[simp] theorem State.respond_reports (r : Response) (s : State) :
    (s.respond r).reports = s.reports := rfl

@[simp] theorem State.respond_fallback (r : Response) (s : State) :
    (s.respond r).fallback = s.fallback := rfl

@[simp] theorem State.respond_clock (r : Response) (s : State) :
    (s.respond r).clock = s.clock := rfl

@[simp] theorem State.respond_subMs (r : Response) (s : State) :
    (s.respond r).subMs = s.subMs := rfl

@[simp] theorem State.respond_power (r : Response) (s : State) :
    (s.respond r).power = s.power := rfl

@[simp] theorem State.respond_pending (r : Response) (s : State) :
    (s.respond r).pending = s.pending := rfl

@[simp] theorem State.respond_held (r : Response) (s : State) :
    (s.respond r).held = s.held := by
  simp [State.held]

@[simp] theorem State.respond_station (r : Response) (s : State) (b : Addr) :
    (s.respond r).station b = s.station b := by
  simp [State.station]

end Sys2Proof.Machine
end

