-- ==== Sys2Proof/Laws/Requests.lean ====
section
/-!
SUPPORT. What the operations of the live set and of the report queue do: finding, changing and completing a
request, a RESULT report at the tail, the removal of every request waiting for a station.
-/

namespace Sys2Proof.Machine

/-- R132, R137: a RESULT report never merges, so it is appended. -/
theorem placeReport_result (tag : Half) (kind : RequestKind) (result : RequestResult) (attempts : Nat)
    (last : Option ExOutcome) (data : List Byte) (queue : List ReportEntry) :
    placeReport (.result tag kind result attempts last data) queue =
      queue ++ [⟨.result tag kind result attempts last data, .unsent⟩] := by
  induction queue with
  | nil => rfl
  | cons e rest ih =>
    obtain ⟨report, status⟩ := e
    cases report <;> cases status <;> simp [placeReport, Report.merge?, ih]

theorem State.putReport_result (tag : Half) (kind : RequestKind) (result : RequestResult) (attempts : Nat)
    (last : Option ExOutcome) (data : List Byte) (s : State) :
    s.putReport (.result tag kind result attempts last data) =
      { s with
        reports :=
          { s.reports with
            queue := s.reports.queue ++ [⟨.result tag kind result attempts last data, .unsent⟩]
            attn := true } } := by
  simp [State.putReport, State.withReports, ReportUnit.setQueue, placeReport_result]

/-- The request found holds the tag. -/
theorem State.findRequest_tag {s : State} {tag : Half} {r : Request} (h : s.findRequest tag = some r) :
    r.tag = tag := by
  simpa using List.find?_some h

theorem State.findRequest_mem {s : State} {tag : Half} {r : Request} (h : s.findRequest tag = some r) :
    r ∈ s.requests := List.mem_of_find?_eq_some h

/-- With distinct tags, a live request is the one its tag finds. -/
theorem State.findRequest_of_mem {s : State} (nodup : (s.requests.map fun r => r.tag).Nodup) {r : Request}
    (h : r ∈ s.requests) : s.findRequest r.tag = some r := by
  unfold State.findRequest
  revert nodup h
  generalize s.requests = requests
  intro nodup h
  induction requests with
  | nil => cases h
  | cons q rest ih =>
    simp only [List.map_cons, List.nodup_cons, List.mem_map, not_exists, not_and] at nodup
    rcases List.mem_cons.1 h with rfl | h
    · simp
    · have : q.tag ≠ r.tag := fun e => nodup.1 r h e.symm
      simp only [List.find?, beq_eq_false_iff_ne.2 this, ih nodup.2 h]

theorem State.findRequest_none {s : State} {tag : Half} :
    s.findRequest tag = none ↔ ∀ r ∈ s.requests, r.tag ≠ tag := by
  simp [State.findRequest]

/-- A change that keeps tags is seen by the tag. -/
theorem State.findRequest_updateRequest {s : State} {tag : Half} {f : Request → Request}
    (keeps : ∀ r, (f r).tag = r.tag) :
    (s.updateRequest tag f).findRequest tag = (s.findRequest tag).map f := by
  unfold State.findRequest State.updateRequest State.withRequests
  simp only [List.find?_map]
  have : (fun r : Request => r.tag == tag) ∘ (fun r => if r.tag = tag then f r else r) =
      fun r => r.tag == tag := by
    funext r
    by_cases h : r.tag = tag <;> simp [h, keeps]
  rw [this]
  cases h : s.requests.find? (fun r => r.tag == tag) with
  | none => rfl
  | some r => simp [show r.tag = tag by simpa using List.find?_some h]

/-- Two changes of one request are one. -/
theorem State.updateRequest_updateRequest {s : State} {tag : Half} {f g : Request → Request}
    (keeps : ∀ r, (g r).tag = r.tag) :
    (s.updateRequest tag g).updateRequest tag f = s.updateRequest tag (fun r => f (g r)) := by
  simp only [State.updateRequest, State.withRequests, List.map_map]
  congr 1
  apply List.map_congr_left
  intro r _
  by_cases h : r.tag = tag <;> simp [h, keeps]

/-- R49, R50: everything a completion does. -/
theorem State.completeRequest_eq {s : State} {tag : Half} {r : Request} (found : s.findRequest tag = some r)
    (result : RequestResult) (data : List Byte) :
    s.completeRequest tag result data =
      { s with
        requests := s.requests.map fun q => if q.tag = tag then { q with state := .reported } else q
        reports :=
          { s.reports with
            queue := s.reports.queue ++ [⟨.result r.tag r.kind result r.attempts r.lastOutcome data, .unsent⟩]
            attn := true } } := by
  simp only [State.completeRequest, found, Request.resultReport, State.putReport_result]
  rfl

/-- R47, R48: everything the removal of the requests waiting for a station does. -/
theorem State.removeWaiting_eq {s : State} (nodup : (s.requests.map fun r => r.tag).Nodup) (a : Addr)
    (result : RequestResult) :
    s.removeWaiting a result =
      { s with
        requests := s.requests.map fun r =>
          if r.state = .waiting ∧ r.station = some a then { r with state := .reported } else r
        reports :=
          { s.reports with
            queue := s.reports.queue ++ (s.requests.filter (Request.waitsFor a)).map fun r =>
              ⟨.result r.tag r.kind result r.attempts r.lastOutcome [], .unsent⟩
            attn := s.reports.attn || s.requests.any (Request.waitsFor a) } } := by
  -- over a list of requests of the live set still as they were
  have key : ∀ (todo : List Request) (u : State), (todo.map fun r => r.tag).Nodup →
      (∀ r ∈ todo, u.findRequest r.tag = some r) →
      todo.foldl (fun s r => s.completeRequest r.tag result []) u =
        { u with
          requests := u.requests.map fun q =>
            if q.tag ∈ todo.map (fun r => r.tag) then { q with state := .reported } else q
          reports :=
            { u.reports with
              queue := u.reports.queue ++ todo.map fun r =>
                ⟨.result r.tag r.kind result r.attempts r.lastOutcome [], .unsent⟩
              attn := u.reports.attn || !todo.isEmpty } } := by
    intro todo
    induction todo with
    | nil => intro u _ _; simp
    | cons r rest ih =>
      intro u distinct found
      simp only [List.map_cons, List.nodup_cons, List.mem_map, not_exists, not_and] at distinct
      simp only [List.foldl_cons]
      rw [State.completeRequest_eq (found r (by simp)), ih _ distinct.2]
      · simp only [List.map_map, List.map_cons, List.append_assoc, List.cons_append, List.nil_append,
          List.isEmpty_cons, Bool.not_false, Bool.or_true, Bool.true_or]
        congr 1
        apply List.map_congr_left
        intro q _
        simp only [Function.comp]
        by_cases h : q.tag = r.tag
        · simp [h]
        · simp [h]
      · intro x hx
        have old := found x (by simp [hx])
        have other : x.tag ≠ r.tag := fun e => distinct.1 x hx e
        simp only [State.findRequest] at old ⊢
        rw [List.find?_map]
        have : (fun q : Request => q.tag == x.tag) ∘
            (fun q : Request => if q.tag = r.tag then { q with state := .reported } else q) =
            fun q => q.tag == x.tag := by
          funext q
          by_cases h : q.tag = r.tag <;> simp [h]
        rw [this, old]
        simp [other]
  unfold State.removeWaiting
  rw [key]
  · congr 1
    · apply List.map_congr_left
      intro q hq
      have : q.tag ∈ (s.requests.filter (Request.waitsFor a)).map (fun r => r.tag) ↔
          q.state = .waiting ∧ q.station = some a := by
        constructor
        · intro h
          obtain ⟨r, hr, e⟩ := List.mem_map.1 h
          obtain ⟨hr, w⟩ := List.mem_filter.1 hr
          have h1 := State.findRequest_of_mem nodup hr
          have h2 := State.findRequest_of_mem nodup hq
          rw [e, h2] at h1
          cases h1
          simpa [Request.waitsFor] using w
        · intro h
          exact List.mem_map.2 ⟨q, List.mem_filter.2 ⟨hq, by simp [Request.waitsFor, h]⟩, rfl⟩
      simp only [this]
    · have : (!(s.requests.filter (Request.waitsFor a)).isEmpty) = s.requests.any (Request.waitsFor a) := by
        rw [Bool.eq_iff_iff]
        simp
      rw [this]
  · exact nodup.sublist (List.Sublist.map _ List.filter_sublist)
  · intro r hr
    exact State.findRequest_of_mem nodup (List.mem_filter.1 hr).1

end Sys2Proof.Machine
end

