-- ==== Sys2Proof/Laws/HostLink.lean ====
section
/-!
SUPPORT. What the operations of the host link do: the notice of a good CRC, the ready slot, acknowledgements and the
frames of the transmitter.
-/

namespace Sys2Proof.Machine

/-! ### The notice of a good CRC -/

/-- R189: the silence timer after a notice. -/
theorem State.restartSilence_eq (s : State) :
    s.restartSilence =
      { s with
        fallback :=
          if s.fallback.limit ≠ 0 ∧ s.engine.role = .master ∧ s.fallback.pending = false then
            { s.fallback with timer := some s.clock }
          else s.fallback } := by
  unfold State.restartSilence
  by_cases h1 : s.fallback.limit = 0
  · simp [Fallback.armed, h1]
  · by_cases h2 : s.engine.role = .master
    · by_cases h3 : s.fallback.pending = true
      · simp [Fallback.armed, h1, h2, h3]
      · simp [Fallback.armed, h1, h2, h3, State.withFallback]
    · simp [Fallback.armed, h1, h2]

/-- R149: the Report Unit after a notice. -/
def ReportUnit.stallEnded (now : Clock) (u : ReportUnit) : ReportUnit :=
  match u.link with
  | .flowing => u
  | .stalled =>
    match oldestSent u.queue with
    | none => { u with link := .flowing, roundCount := 0 }
    | some q =>
      { u with
        link := .flowing
        roundCount := 0
        resendPoint := some q
        ackTimer := some ⟨now, u.ackTimeout⟩ }

theorem State.endStall_eq (s : State) : s.endStall = { s with reports := s.reports.stallEnded s.clock } := by
  unfold State.endStall ReportUnit.stallEnded
  cases hl : s.reports.link with
  | flowing => rfl
  | stalled => cases ho : oldestSent s.reports.queue <;> rfl

/-- R158, R189, R149: everything the notice of a good CRC changes. -/
theorem State.goodCrcNotice_eq (s : State) :
    s.goodCrcNotice =
      { s with
        fallback :=
          if s.fallback.limit ≠ 0 ∧ s.engine.role = .master ∧ s.fallback.pending = false then
            { s.fallback with timer := some s.clock }
          else s.fallback
        reports := s.reports.stallEnded s.clock } := by
  rw [State.goodCrcNotice, State.restartSilence_eq, State.endStall_eq]

/-- The notice does not look at the Host Link. -/
theorem State.goodCrcNotice_withHost (f : HostLink → HostLink) (s : State) :
    (s.withHost f).goodCrcNotice = s.goodCrcNotice.withHost f := by
  rw [State.goodCrcNotice_eq, State.goodCrcNotice_eq]
  rfl

/-! ### The ready slot -/

/-- R160: the frame in the empty ready slot, or an overrun. -/
theorem State.placeReady_eq (f : CommandFrame) (s : State) :
    s.placeReady f = s.withHost fun h =>
      match h.readySlot with
      | none => { h with readySlot := some f }
      | some _ => { h with counters := { h.counters with overruns := satInc h.counters.overruns } } := by
  unfold State.placeReady
  cases hs : s.host.readySlot <;> simp [State.withHost, State.withHostCounters, hs]

/-- R158: everything a frame with a good CRC changes beside its own handling. -/
theorem State.goodFrame_eq (s : State) :
    s.goodFrame =
      { s with
        fallback :=
          if s.fallback.limit ≠ 0 ∧ s.engine.role = .master ∧ s.fallback.pending = false then
            { s.fallback with timer := some s.clock }
          else s.fallback
        reports := s.reports.stallEnded s.clock
        host := { s.host with receiver := .hunting } } := by
  rw [State.goodFrame, State.goodCrcNotice_eq]
  rfl

@[simp] theorem State.goodFrame_stations (s : State) : s.goodFrame.stations = s.stations := by
  rw [State.goodFrame_eq]

@[simp] theorem State.goodFrame_requests (s : State) : s.goodFrame.requests = s.requests := by
  rw [State.goodFrame_eq]

@[simp] theorem State.goodFrame_engine (s : State) : s.goodFrame.engine = s.engine := by rw [State.goodFrame_eq]

@[simp] theorem State.goodFrame_host (s : State) : s.goodFrame.host = { s.host with receiver := .hunting } := by
  rw [State.goodFrame_eq]

@[simp] theorem State.goodFrame_unit (s : State) : s.goodFrame.unit = s.unit := by rw [State.goodFrame_eq]

@[simp] theorem State.goodFrame_clock (s : State) : s.goodFrame.clock = s.clock := by rw [State.goodFrame_eq]

@[simp] theorem State.goodFrame_subMs (s : State) : s.goodFrame.subMs = s.subMs := by rw [State.goodFrame_eq]

@[simp] theorem State.goodFrame_power (s : State) : s.goodFrame.power = s.power := by rw [State.goodFrame_eq]

@[simp] theorem State.goodFrame_pending (s : State) : s.goodFrame.pending = s.pending := by rw [State.goodFrame_eq]

@[simp] theorem State.goodFrame_held (s : State) : s.goodFrame.held = s.held := by simp [State.held]

@[simp] theorem State.goodFrame_station (s : State) (a : Addr) : s.goodFrame.station a = s.station a := by
  simp [State.station]

theorem State.goodFrame_cache (s : State) : s.goodFrame.host.cache = s.host.cache := by simp

/-- The Host Link's part of a good frame is its receiver. -/
theorem State.goodFrame_withHost (f : HostLink → HostLink) (s : State)
    (hf : ∀ h, f { h with receiver := .hunting } = { f h with receiver := .hunting }) :
    (s.withHost f).goodFrame = s.goodFrame.withHost f := by
  rw [State.goodFrame_eq, State.goodFrame_eq]
  simp [State.withHost, hf]
  rfl

/-- R160, R162: a COMMAND frame that finds the Command Unit free is taken at once. -/
theorem State.offer_of_free {s : State} (f : CommandFrame) (h1 : s.host.readySlot = none)
    (h2 : s.unit.responseSlot = none) : s.offer f = s.goodFrame.takeFrame f := by
  have placed : State.withHost (fun h => { h with readySlot := none })
      ((s.withHost fun h => { h with readySlot := some f }).goodFrame) = s.goodFrame := by
    rw [State.goodFrame_eq, State.goodFrame_eq]
    cases s with | mk _ _ _ _ host _ _ _ _ _ _ => cases host; subst h1; rfl
  simp only [State.offer, State.placeReady, h1, State.takeReady, State.goodFrame_host, State.goodFrame_unit,
    State.withHost_unit, h2, State.withHost_host, placed]

/-- R160, R162: a COMMAND frame that comes while a response is undelivered waits, or meets an overrun. -/
theorem State.offer_of_response {s : State} {r : Response} (f : CommandFrame) (h : s.unit.responseSlot = some r) :
    s.offer f = (s.placeReady f).goodFrame := by
  have : (s.placeReady f).goodFrame.unit.responseSlot = some r := by
    rw [State.placeReady_eq]; simp [h]
  rw [State.offer]
  generalize (s.placeReady f).goodFrame = t at this
  rw [State.takeReady, this]
  cases t.host.readySlot <;> rfl

/-! ### SENT entries -/

/-- The oldest SENT entry's number is that of the first SENT entry. -/
theorem oldestSent_eq (queue : List ReportEntry) :
    oldestSent queue = queue.findSome? fun e =>
      match e.status with
      | .sent q => some q
      | .unsent => none := by
  induction queue with
  | nil => rfl
  | cons e rest ih =>
    obtain ⟨report, status⟩ := e
    cases status <;> simp [oldestSent, ih]

theorem oldestSent_isSome (queue : List ReportEntry) :
    (oldestSent queue).isSome = queue.any fun e => e.status.isSent := by
  induction queue with
  | nil => rfl
  | cons e rest ih =>
    obtain ⟨report, status⟩ := e
    cases status <;> simp [oldestSent, SendState.isSent, ih]

/-- R145: an ACK of a number no earlier entry of the SENT front holds takes everything up to its entry. -/
theorem splitAck_of_mem {q : Byte} {older rest : List ReportEntry} {e : ReportEntry} (he : e.status = .sent q)
    (front : ∀ x ∈ older, x.status.isSent = true ∧ x.status ≠ .sent q) :
    splitAck q (older ++ e :: rest) = some (older ++ [e], rest) := by
  induction older with
  | nil => simp [splitAck, he]
  | cons x older ih =>
    obtain ⟨report, status⟩ := x
    have h := front ⟨report, status⟩ (by simp)
    cases status with
    | unsent => simp [SendState.isSent] at h
    | sent q' =>
      have : q' ≠ q := by simpa using h.2
      simp [splitAck, this, ih fun y hy => front y (by simp [hy])]

/-- R146: an ACK of a number no entry holds matches nothing. -/
theorem splitAck_of_not_mem {q : Byte} {queue : List ReportEntry} (h : ∀ e ∈ queue, e.status ≠ .sent q) :
    splitAck q queue = none := by
  induction queue with
  | nil => rfl
  | cons e rest ih =>
    obtain ⟨report, status⟩ := e
    have h1 := h ⟨report, status⟩ (by simp)
    cases status with
    | unsent => rfl
    | sent q' =>
      have : q' ≠ q := by simpa using h1
      simp [splitAck, this, ih fun y hy => h y (by simp [hy])]

/-- R143: the oldest UNSENT entry behind SENT ones becomes SENT. -/
theorem sendOldest_eq {q : Byte} {sent later : List ReportEntry} {r : Report}
    (front : ∀ x ∈ sent, x.status ≠ .unsent) :
    sendOldest q (sent ++ ⟨r, .unsent⟩ :: later) = some (r, sent ++ ⟨r, .sent q⟩ :: later) := by
  induction sent with
  | nil => rfl
  | cons x sent ih =>
    obtain ⟨report, status⟩ := x
    have h := front ⟨report, status⟩ (by simp)
    cases status with
    | unsent => simp at h
    | sent q' => simp [sendOldest, ih fun y hy => front y (by simp [hy])]

end Sys2Proof.Machine
end

