-- ==== Sys2Proof/Laws/Commands.lean ====
section
/-!
SUPPORT. What the host commands share: a command that will be carried out is answered from its own meaning, its
code and its sequence; how bytes make values; what every role change and selection leaves alone.
-/

namespace Sys2Proof.Machine

/-! ### Values from bytes -/

theorem halfOf_toNat (hi lo : Byte) : (halfOf hi lo).toNat = hi.toNat * 256 + lo.toNat := by
  have h := lo.isLt
  show (hi ++ lo : BitVec (8 + 8)).toNat = _
  rw [BitVec.toNat_append, Nat.shiftLeft_eq, Nat.mul_comm, ← Nat.two_pow_add_eq_or_of_lt h]

theorem LineRate.ofCode?_eq (c : Byte) :
    LineRate.ofCode? c = [LineRate.r19200, .r38400, .r57600, .r115200, .r250000, .r500000][c.toNat]? := by
  revert c; decide

theorem addrOfByte?_some {b : Byte} {a : Addr} (h : b.toNat = a.val + 1) : addrOfByte? b = some a := by
  have := a.isLt
  simp [addrOfByte?, h]

theorem addrByte_eq {b : Byte} {a : Addr} (h : b.toNat = a.val + 1) : addrByte a = b := by
  have := a.isLt
  apply BitVec.eq_of_toNat_eq
  simp [addrByte, natByte, h]
  omega

/-- A counter raised by 1 stays at 65,535. -/
theorem satInc_eq (c : Half) : satInc c = if c = 0xFFFF#16 then 0xFFFF#16 else c + 1 := by
  unfold satInc satAdd
  split
  · next h => subst h; rfl
  · next h =>
    have h1 := c.isLt
    have h2 : c.toNat ≠ 65535 := fun h3 => h (BitVec.eq_of_toNat_eq (by simpa using h3))
    apply BitVec.eq_of_toNat_eq
    simp [BitVec.toNat_add]; omega

theorem charTimesRun_eq (cycles bps n : Nat) :
    charTimesRun cycles bps n = decide (160000000 * n ≤ cycles * bps) := by
  have : n * Config.bitsPerCharacter * Config.clkHz = 160000000 * n := by
    simp only [Config.bitsPerCharacter, Config.clkHz]; omega
  rw [charTimesRun, this]

/-! ### Carrying out a command -/

/-- R158, R162, R163: a command that finds the Command Unit free and is not the cached one is carried out at once, on
the state its good CRC leaves. -/
theorem hostCommand_eq (name : CommandName) (seq : Byte) (params : List Byte) {s₀ s : State}
    (h : s₀.takes seq s) : hostCommand name seq params s₀ = s.carryOut ⟨seq, name.code :: params⟩ := by
  obtain ⟨⟨⟨h1, h5, h2, h3⟩, h4⟩, rfl⟩ := h
  rw [hostCommand, whenRunning_of_running h1, State.receiveCommand, if_pos (by simp [HostLink.listening, h5]),
    State.offer_of_free _ h2 h3, State.takeFrame]
  simp only [HostLink.isCached] at h4
  simp only [State.goodFrame_cache]
  cases hc : s₀.host.cache with
  | none => rfl
  | some c => simp only [hc] at h4; simp at h4; simp [h4]

@[simp] theorem CommandName.ofCode?_code (n : CommandName) : CommandName.ofCode? n.code = some n := by
  cases n <;> rfl

/-- R172, R198: the response to a command whose code is known. -/
theorem State.carryOut_named (n : CommandName) (seq : Byte) (params : List Byte) (s : State) :
    s.carryOut ⟨seq, n.code :: params⟩ =
      (s.perform n params).state.respond
        ⟨seq, n.code :: (s.perform n params).status.code :: (s.perform n params).data⟩ := by
  simp [State.carryOut, State.answer, echoedCode]

/-- The row of a host command, whichever it is. -/
theorem exec_row (name : CommandName) (seq : Byte) (params : List Byte) (s : State) :
    exec (name.row seq params) s = .next (hostCommand name seq params s) := by
  cases name <;> rfl

/-- A host command carried out: its answer, in the response. -/
theorem exec_row_eq (name : CommandName) (seq : Byte) (params : List Byte) {s₀ s : State} (h : s₀.takes seq s) :
    exec (name.row seq params) s₀ =
      .next ((s.perform name params).state.respond
        ⟨seq, name.code :: (s.perform name params).status.code :: (s.perform name params).data⟩) := by
  rw [exec_row, hostCommand_eq _ _ _ h, State.carryOut_named]

/-! ### Roles and selections -/

@[simp] theorem LineEngine.tryStart_role (e : LineEngine) : e.tryStart.role = e.role := by
  unfold LineEngine.tryStart
  repeat' split
  all_goals rfl

/-- No selection changes the line role. -/
@[simp] theorem State.select_role (s : State) : s.select.engine.role = s.engine.role := by
  unfold State.select
  split
  · split
    · rfl
    · unfold State.commit LineEngine.commit
      split <;> simp
  · rfl

/-- R64: without its three conditions no selection is made. -/
theorem State.select_of_not {s : State} (h : s.maySelect = false) : s.select = s := by
  simp [State.select, h]

theorem State.select_of_role {s : State} (h : s.engine.role ≠ .master) : s.select = s :=
  State.select_of_not (by simp [State.maySelect, h])

/-- R117, R189: the role becomes MASTER, the silence timer of an armed fallback restarts, and a selection is
made. -/
theorem State.becomeMaster_eq (s : State) :
    s.becomeMaster = State.select
      { s with
        engine := { s.engine with role := .master }
        fallback :=
          if s.fallback.limit ≠ 0 ∧ s.fallback.pending = false then { s.fallback with timer := some s.clock }
          else s.fallback } := by
  unfold State.becomeMaster State.restartSilence
  congr 1
  by_cases h1 : s.fallback.limit = 0
  · simp [Fallback.armed, h1]; rfl
  · by_cases h2 : s.fallback.pending = true
    · simp [Fallback.armed, h1, h2]; rfl
    · simp [Fallback.armed, h1, h2, State.withFallback, State.withEngine]

/-- R92: when a call in GAP may start. -/
theorem LineEngine.maySend_iff (e : LineEngine) :
    e.maySend = true ↔
      e.charInProgress = false ∧ e.lrxHeld = false ∧
        160000000 * e.params.gap ≤ e.quiet * e.params.rate.bps ∧ ∀ chars, e.framer ≠ .collecting chars := by
  unfold LineEngine.maySend LineEngine.gapReached LineEngine.isQuiet
  rw [charTimesRun_eq]
  cases e.framer <;> simp [Framer.isCollecting, and_assoc]

end Sys2Proof.Machine
end

