-- ==== Sys2Proof/Laws/Crc.lean ====
section
/-!
SUPPORT. The CRC: each shift is linear and loses nothing, so the two CRC bytes behind a byte string bring the
remainder to 0 exactly when they are its CRC (R80).
-/

namespace Sys2Proof.Machine

theorem crcShift_eq (r : Half) : crcShift r = (r <<< 1) ^^^ (if r.getLsbD 15 then 0x1021#16 else 0#16) := by
  unfold crcShift
  split <;> simp

theorem crcShift_xor (x y : Half) : crcShift (x ^^^ y) = crcShift x ^^^ crcShift y := by
  simp only [crcShift_eq, BitVec.getLsbD_xor, BitVec.shiftLeft_xor_distrib]
  generalize x <<< 1 = a
  generalize y <<< 1 = b
  cases x.getLsbD 15 <;> cases y.getLsbD 15 <;> simp <;> ext i <;> simp only [BitVec.getElem_xor] <;>
    cases a[i] <;> cases b[i] <;> simp

theorem crcShift_eq_zero {x : Half} (h : crcShift x = 0#16) : x = 0#16 := by
  rw [crcShift_eq] at h
  have low := congrArg (fun v : Half => v.getLsbD 0) h
  by_cases top : x.getLsbD 15 = true
  · rw [if_pos top] at low
    simp at low
  · rw [if_neg top] at h
    apply BitVec.eq_of_getLsbD_eq
    intro i hi
    by_cases h15 : i = 15
    · subst h15; simpa using top
    · have := congrArg (fun v : Half => v.getLsbD (i + 1)) h
      simp at this
      simpa using this (by omega)

/-- Eight shifts. -/
def crcShift8 (r : Half) : Half :=
  crcShift (crcShift (crcShift (crcShift (crcShift (crcShift (crcShift (crcShift r)))))))

theorem crcByte_eq (r : Half) (b : Byte) : crcByte r b = crcShift8 (r ^^^ (b.setWidth 16 <<< 8)) := rfl

theorem crcShift8_xor (x y : Half) : crcShift8 (x ^^^ y) = crcShift8 x ^^^ crcShift8 y := by
  simp only [crcShift8, crcShift_xor]

theorem crcShift8_eq_zero {x : Half} (h : crcShift8 x = 0#16) : x = 0#16 := by
  unfold crcShift8 at h
  exact crcShift_eq_zero (crcShift_eq_zero (crcShift_eq_zero (crcShift_eq_zero (crcShift_eq_zero
    (crcShift_eq_zero (crcShift_eq_zero (crcShift_eq_zero h)))))))

theorem crcShift8_inj {x y : Half} (h : crcShift8 x = crcShift8 y) : x = y := by
  have : crcShift8 (x ^^^ y) = 0#16 := by rw [crcShift8_xor, h]; simp
  exact BitVec.xor_eq_zero_iff.1 (crcShift8_eq_zero this)

/-- A byte in the low half moves to the high half. -/
theorem crcShift8_low (b : Byte) : crcShift8 (b.setWidth 16) = b.setWidth 16 <<< 8 := by
  revert b; decide +kernel

theorem half_append (hi lo : Byte) : (hi ++ lo : Half) = (hi.setWidth 16 <<< 8) ^^^ lo.setWidth 16 := by
  apply BitVec.eq_of_getLsbD_eq
  intro i hi'
  simp only [BitVec.getLsbD_append, BitVec.getLsbD_xor, BitVec.getLsbD_shiftLeft, BitVec.getLsbD_setWidth]
  by_cases h : i < 8
  · simp [h, hi']
  · have : lo.getLsbD i = false := BitVec.getLsbD_of_ge _ _ (by omega)
    simp [h, hi', this]
    omega

theorem crc16_append (bs : List Byte) (b : Byte) : crc16 (bs ++ [b]) = crcByte (crc16 bs) b := by
  simp [crc16, List.foldl_append]

/-- R80, R158: the check of a received CRC. -/
theorem crc16_check (bs : List Byte) (hi lo : Byte) :
    crc16 (bs ++ [hi, lo]) = 0#16 ↔ crc16 bs = hi ++ lo := by
  have e : bs ++ [hi, lo] = (bs ++ [hi]) ++ [lo] := by simp
  rw [e, crc16_append, crc16_append]
  generalize crc16 bs = r
  rw [half_append, crcByte_eq, crcByte_eq, ← crcShift8_low lo, ← crcShift8_xor]
  constructor
  · intro h
    have h1 := crcShift8_eq_zero (crcShift8_eq_zero h)
    have h2 := BitVec.xor_eq_zero_iff.1 h1
    rw [← h2, BitVec.xor_comm r, ← BitVec.xor_assoc]
    simp
  · intro h
    rw [h]
    have : (hi.setWidth 16 <<< 8 ^^^ lo.setWidth 16) ^^^ hi.setWidth 16 <<< 8 ^^^ lo.setWidth 16 = (0#16 : Half) := by
      rw [BitVec.xor_comm (hi.setWidth 16 <<< 8), BitVec.xor_assoc (lo.setWidth 16)]
      simp
    rw [this]
    decide +kernel

end Sys2Proof.Machine
end

