-- ==== Sys2Proof/Laws/Exchanges.lean ====
section
/-!
SUPPORT. What the operations on an exchange do: undoing a commitment, a contention, the outcome at the request.
-/

namespace Sys2Proof.Machine

/-- R200: a header is a reply's when its most significant bit is 1. -/
theorem headerIsReply_eq (h : Byte) : headerIsReply h = decide (128 ≤ h.toNat) := by revert h; decide

/-- R108, R109: undoing a commitment ends the exchange and touches nothing else of the Line Engine. -/
@[simp] theorem State.undoCommitment_engine (record : ExchangeRecord) (collision : Option ExOutcome) (s : State) :
    (s.undoCommitment record collision).engine = { s.engine with exchange := none } := by
  cases h : record.origin <;> simp [State.undoCommitment, h]

@[simp] theorem LineEngine.dropLine_lde (e : LineEngine) : e.dropLine.lde = false := by
  unfold LineEngine.dropLine; split <;> simp_all

@[simp] theorem LineEngine.dropLine_role (e : LineEngine) : e.dropLine.role = e.role := by
  unfold LineEngine.dropLine; split <;> rfl

@[simp] theorem LineEngine.dropLine_counters (e : LineEngine) : e.dropLine.counters = e.counters := by
  unfold LineEngine.dropLine; split <;> rfl

@[simp] theorem LineEngine.dropLine_exchange (e : LineEngine) : e.dropLine.exchange = e.exchange := by
  unfold LineEngine.dropLine; split <;> rfl

@[simp] theorem LineEngine.dropLine_params (e : LineEngine) : e.dropLine.params = e.params := by
  unfold LineEngine.dropLine; split <;> rfl

/-- R36: at a station that is not LOST an undone request goes without a cascade. -/
theorem State.cascadeUndone_of_not_lost {record : ExchangeRecord} {s : State}
    (h : ∀ a, record.station = some a → (s.station a).state ≠ .lost) : s.cascadeUndone record = s := by
  unfold State.cascadeUndone
  cases hs : record.station with
  | none => rfl
  | some a => simp [h a hs]

/-- R39: an undone request within its deadline returns to WAITING, with its last outcome if it has one. -/
theorem State.undoRequest_waiting {s : State} {r : Request} (found : s.findRequest r.tag = some r)
    (collision : Option ExOutcome) (alive : r.deadlinePassed s.clock = false) :
    s.undoRequest r.tag false collision =
      s.updateRequest r.tag fun q => { q with lastOutcome := collision.or q.lastOutcome, state := .waiting } := by
  have found' : (s.updateRequest r.tag fun q => { q with lastOutcome := collision.or q.lastOutcome }).findRequest
      r.tag = some { r with lastOutcome := collision.or r.lastOutcome } := by
    rw [State.findRequest_updateRequest (by intro; rfl), found]; rfl
  have same : ({ r with lastOutcome := collision.or r.lastOutcome } : Request).deadlinePassed s.clock = false :=
    alive
  simp only [State.undoRequest, found']
  rw [if_neg (by simp), if_neg (by simpa using same), State.updateRequest_updateRequest (by intro; rfl)]

/-- The state in which a request has got a result from an undone commitment: REPORTED, with its last outcome if the
undoing brings one, and its RESULT report at the tail. -/
def State.undoneWith (r : Request) (collision : Option ExOutcome) (result : RequestResult) (s : State) : State :=
  { s with
    requests := s.requests.map fun q =>
      if q.tag = r.tag then { q with lastOutcome := collision.or q.lastOutcome, state := .reported } else q
    reports :=
      { s.reports with
        queue := s.reports.queue ++
          [⟨.result r.tag r.kind result r.attempts (collision.or r.lastOutcome) [], .unsent⟩]
        attn := true } }

/-- R39, R44: an undone request past its deadline is EXPIRED, an orphan CANCELLED. -/
theorem State.undoRequest_final {s : State} {r : Request} (found : s.findRequest r.tag = some r)
    (collision : Option ExOutcome) {orphaned : Bool} {result : RequestResult}
    (h : orphaned = true ∧ result = .cancelled ∨
      orphaned = false ∧ r.deadlinePassed s.clock = true ∧ result = .expired) :
    s.undoRequest r.tag orphaned collision = s.undoneWith r collision result := by
  have found' : (s.updateRequest r.tag fun q => { q with lastOutcome := collision.or q.lastOutcome }).findRequest
      r.tag = some { r with lastOutcome := collision.or r.lastOutcome } := by
    rw [State.findRequest_updateRequest (by intro; rfl), found]; rfl
  have same : ({ r with lastOutcome := collision.or r.lastOutcome } : Request).deadlinePassed s.clock =
      r.deadlinePassed s.clock := rfl
  have done : ∀ result,
      (s.updateRequest r.tag fun q => { q with lastOutcome := collision.or q.lastOutcome }).completeRequest r.tag
        result [] = s.undoneWith r collision result := by
    intro result
    rw [State.completeRequest_eq found']
    simp only [State.undoneWith, State.updateRequest, State.withRequests, List.map_map]
    congr 1
    apply List.map_congr_left
    intro q _
    by_cases hq : q.tag = r.tag <;> simp [hq]
  simp only [State.undoRequest, found', done]
  rcases h with ⟨rfl, rfl⟩ | ⟨rfl, h, rfl⟩
  · rfl
  · rw [if_neg (by simp), State.updateRequest_clock, same, if_pos h]

/-- R36 (log 24): an undone request of a station that has become LOST meanwhile, the only one left of that station. -/
theorem State.undoRequest_lost {s : State} {r : Request} {a : Addr} {record : ExchangeRecord}
    (found : s.findRequest r.tag = some r) (collision : Option ExOutcome)
    (nodup : (s.requests.map fun q => q.tag).Nodup) (alive : r.deadlinePassed s.clock = false)
    (orphaned : record.orphaned = false) (names : record.station = some a) (station : r.station = some a)
    (lost : (s.station a).state = .lost)
    (alone : ∀ q ∈ s.requests, q.tag ≠ r.tag → q.state = .waiting → q.station ≠ some a) :
    (s.undoRequest r.tag false collision).cascadeUndone record = s.undoneWith r collision .stationLost := by
  have mem := State.findRequest_mem found
  have only : ∀ q ∈ s.requests, q.tag = r.tag → q = r := by
    intro q hq e
    have := State.findRequest_of_mem nodup hq
    rw [e, found] at this
    cases this; rfl
  rw [State.undoRequest_waiting found collision alive]
  have keep : ((s.updateRequest r.tag fun q =>
      { q with lastOutcome := collision.or q.lastOutcome, state := .waiting }).station a).state = .lost := by
    simpa using lost
  have tags : (((s.updateRequest r.tag fun q =>
      { q with lastOutcome := collision.or q.lastOutcome, state := .waiting }).requests.map fun q => q.tag)) =
      s.requests.map fun q => q.tag := by
    simp only [State.updateRequest, State.withRequests, List.map_map]
    apply List.map_congr_left
    intro q _
    by_cases hq : q.tag = r.tag <;> simp [hq]
  simp only [State.cascadeUndone, names, orphaned, keep, Bool.not_false, Bool.true_and, beq_self_eq_true, if_true]
  rw [State.removeWaiting_eq (by rw [tags]; exact nodup)]
  have waits : (s.updateRequest r.tag fun q =>
      { q with lastOutcome := collision.or q.lastOutcome, state := .waiting }).requests.filter
        (Request.waitsFor a) = [{ r with lastOutcome := collision.or r.lastOutcome, state := .waiting }] := by
    simp only [State.updateRequest, State.withRequests]
    obtain ⟨before, after, e⟩ := List.append_of_mem mem
    have others : ∀ q, q ∈ before ++ after → q.tag ≠ r.tag := by
      intro q hq he
      rw [e] at nodup
      simp only [List.map_append, List.map_cons] at nodup
      have := (List.nodup_middle.1 nodup)
      simp only [List.nodup_cons, List.mem_append, List.mem_map] at this
      exact this.1 (by rcases List.mem_append.1 hq with h | h
                       · exact .inl ⟨q, h, he⟩
                       · exact .inr ⟨q, h, he⟩)
    have none_of : ∀ l : List Request, (∀ q ∈ l, q ∈ before ++ after) →
        (l.map fun q => if q.tag = r.tag then
          { q with lastOutcome := collision.or q.lastOutcome, state := .waiting } else q).filter
            (Request.waitsFor a) = [] := by
      intro l hl
      rw [List.filter_eq_nil_iff]
      intro q hq
      obtain ⟨p, hp, rfl⟩ := List.mem_map.1 hq
      have h1 := others p (hl p hp)
      have h2 : p ∈ s.requests := by
        rw [e]
        rcases List.mem_append.1 (hl p hp) with h | h <;> simp [h]
      have h3 := alone p h2 h1
      simp only [h1, if_false, Request.waitsFor, Bool.and_eq_true, beq_iff_eq, not_and]
      exact h3
    rw [e, List.map_append, List.map_cons, List.filter_append, List.filter_cons,
      none_of before (fun q h => by simp [h]), none_of after (fun q h => by simp [h])]
    simp [Request.waitsFor, station]
  have any : (s.updateRequest r.tag fun q =>
      { q with lastOutcome := collision.or q.lastOutcome, state := .waiting }).requests.any
        (Request.waitsFor a) = true := by
    rw [List.any_eq_true]
    exact ⟨{ r with lastOutcome := collision.or r.lastOutcome, state := .waiting },
      (List.mem_filter.1 (waits ▸ List.mem_singleton.2 rfl)).1, by simp [Request.waitsFor, station]⟩
  rw [waits, any]
  simp only [State.undoneWith, State.updateRequest, State.withRequests, List.map_map, List.map_cons, List.map_nil,
    Bool.or_true]
  congr 1
  apply List.map_congr_left
  intro q hq
  by_cases h : q.tag = r.tag
  · have := only q hq h
    subst this
    simp [station]
  · have := alone q hq h
    simp only [Function.comp, h, if_false]
    rw [if_neg (by rintro ⟨h1, h2⟩; exact this h1 h2)]

/-- R124, R125: the contention counted, and the role it leaves, from MASTER or STOPPING. -/
theorem State.contention_eq {s : State} {toRole : LineRole} {reason : LineReason} (detail : CollisionDetail)
    (h : s.engine.role = .master ∧ toRole = .yielded ∧ reason = .contention ∨
      s.engine.role = .stopping ∧ toRole = .off ∧ reason = .stopped) :
    s.countContention.contentionRole detail =
      State.putReport (.line s.engine.role toRole reason detail.toLine 0)
        { s with
          engine :=
            { s.engine with
              role := toRole
              counters := { s.engine.counters with contentions := satInc s.engine.counters.contentions } }
          fallback := { s.fallback with timer := none, pending := false, phase := .none } } := by
  rcases h with ⟨h, rfl, rfl⟩ | ⟨h, rfl, rfl⟩ <;>
  · simp only [State.countContention, State.withLineCounters, State.contentionRole, State.withEngine, h,
      State.leaveMaster, State.withFallback, lineReport]

/-- R40 to R44, R49, R50: the outcome at the request the exchange served. -/
theorem State.decideRequest_eq {s : State} {r : Request} (d : Delivery) (found : s.findRequest r.tag = some r) :
    s.decideRequest r.tag d =
      match (r.attempted d.outcome).fate s.clock d.record.orphaned d.outcome with
      | none => s.updateRequest r.tag fun q => { q.attempted d.outcome with state := .waiting }
      | some result =>
        (s.updateRequest r.tag (Request.attempted d.outcome)).completeRequest r.tag result
          (if result = .done then r.resultData d.data else []) := by
  have h : (s.updateRequest r.tag (Request.attempted d.outcome)).findRequest r.tag =
      some (r.attempted d.outcome) := by
    rw [State.findRequest_updateRequest (by intro; rfl), found]; rfl
  simp only [State.decideRequest, h, State.updateRequest_clock]
  split
  · next e => rw [e]; exact State.updateRequest_updateRequest (by intro; rfl)
  · next e => rw [e]; rfl
  · next result e1 e2 =>
    rw [e2]
    simp only
    rw [if_neg]
    rintro rfl
    simp at e1

end Sys2Proof.Machine
end

