-- ==== Sys2Proof/Laws/Stations.lean ====
section
/-!
SUPPORT. What an outcome does at a station's entry, state by state, as one change of that entry.
-/

namespace Sys2Proof.Machine

@[simp] theorem State.setStation_setStation (a : Addr) (e f : Station) (s : State) :
    (s.setStation a e).setStation a f = s.setStation a f := by
  simp [State.setStation]

@[simp] theorem Station.count_state (now : Clock) (d : Delivery) (e : Station) :
    (e.count now d).state = e.state := by
  unfold Station.count
  repeat' split
  all_goals rfl

@[simp] theorem Station.count_missCount (now : Clock) (d : Delivery) (e : Station) :
    (e.count now d).missCount = e.missCount := by
  unfold Station.count
  repeat' split
  all_goals rfl

@[simp] theorem Station.count_missLimit (now : Clock) (d : Delivery) (e : Station) :
    (e.count now d).missLimit = e.missLimit := by
  unfold Station.count
  repeat' split
  all_goals rfl

/-- R20, R21: a miss below the miss limit. -/
theorem State.missed_of_lt {s : State} {a : Addr} (h : (s.station a).countMiss < (s.station a).missLimit) :
    s.missed a = s.setStation a
      { s.station a with
        state := .suspect, missCount := (s.station a).countMiss, nextDue := some (DueTime.atOnce s.clock) } := by
  simp only [State.missed, h, if_true]

/-- R20, R21, R22: a miss that reaches the miss limit. -/
theorem State.missed_of_ge {s : State} {a : Addr} (h : (s.station a).missLimit ≤ (s.station a).countMiss) :
    s.missed a = s.enterLost a (s.station a).state := by
  simp only [State.missed, Nat.not_lt.2 h, if_false]

/-- R20, R21: a miss of a POLL, PUT or GET at an ONLINE or SUSPECT station. -/
theorem State.applyOutcome_miss {s : State} {a : Addr} {d : Delivery}
    (state : (s.station a).state = .online ∨ (s.station a).state = .suspect) (kind : d.record.kind ≠ .hail)
    (miss : d.outcome.isMiss = true) :
    s.applyOutcome a d = (s.setStation a ((s.station a).count s.clock d)).missed a := by
  unfold State.applyOutcome
  rcases state with h | h <;> simp [State.withStation, h, kind, miss]

/-- R20, R21: an answer to a POLL, PUT or GET at an ONLINE or SUSPECT station. -/
theorem State.applyOutcome_answer {s : State} {a : Addr} {d : Delivery}
    (state : (s.station a).state = .online ∨ (s.station a).state = .suspect) (kind : d.record.kind ≠ .hail)
    (answer : d.outcome.isMiss = false) :
    s.applyOutcome a d =
      (if d.record.kind = .poll ∧ d.outcome = .good then
        (s.setStation a (((s.station a).count s.clock d).answered s.clock d.record.origin)).handleImage a
          d.record.imageLength d.data
       else s.setStation a (((s.station a).count s.clock d).answered s.clock d.record.origin)) := by
  unfold State.applyOutcome
  rcases state with h | h <;> simp [State.withStation, h, kind, answer]

/-- R19, R23: a HAIL at a PROBING station. -/
theorem State.applyOutcome_probing {s : State} {a : Addr} {d : Delivery} (state : (s.station a).state = .probing)
    (kind : d.record.kind = .hail) :
    s.applyOutcome a d =
      (if d.outcome = .good then
        (s.setStation a ((s.station a).count s.clock d)).hailAnswered a
          ((s.station a).count s.clock d).expected (identityOf d.data) .found
       else (s.setStation a ((s.station a).count s.clock d)).probeAgain a) := by
  unfold State.applyOutcome
  simp [State.withStation, state, kind]

/-- R23: a HAIL at a LOST station. -/
theorem State.applyOutcome_lost {s : State} {a : Addr} {d : Delivery} (state : (s.station a).state = .lost)
    (kind : d.record.kind = .hail) :
    s.applyOutcome a d =
      (if d.outcome = .good then
        (s.setStation a ((s.station a).count s.clock d)).hailAnswered a
          (((s.station a).count s.clock d).expected.or ((s.station a).count s.clock d).identity)
          (identityOf d.data) .returned
       else (s.setStation a ((s.station a).count s.clock d)).probeAgain a) := by
  unfold State.applyOutcome
  simp [State.withStation, state, kind]

/-- R27: two byte strings differ under a mask where some place of theirs does. -/
theorem differsUnder_iff (mask xs ys : List Byte) :
    differsUnder mask xs ys = true ↔
      ∃ (i : Nat) (m x y : Byte), mask[i]? = some m ∧ xs[i]? = some x ∧ ys[i]? = some y ∧ x &&& m ≠ y &&& m := by
  induction mask generalizing xs ys with
  | nil => simp [differsUnder]
  | cons m mask ih =>
    cases xs with
    | nil => simp [differsUnder]
    | cons x xs =>
      cases ys with
      | nil => simp [differsUnder]
      | cons y ys =>
        have bits : ((x ^^^ y) &&& m != 0#8) = true ↔ x &&& m ≠ y &&& m := by
          have split : (x ^^^ y) &&& m = (x &&& m) ^^^ (y &&& m) := by
            ext i
            simp only [BitVec.getElem_and, BitVec.getElem_xor]
            cases x[i] <;> cases y[i] <;> cases m[i] <;> rfl
          rw [split, bne_iff_ne]
          simp [BitVec.xor_eq_zero_iff]
        simp only [differsUnder, Bool.or_eq_true, bits, ih]
        constructor
        · rintro (h | ⟨i, m', x', y', h⟩)
          · exact ⟨0, m, x, y, rfl, rfl, rfl, h⟩
          · exact ⟨i + 1, m', x', y', h⟩
        · rintro ⟨i, m', x', y', h1, h2, h3, h4⟩
          cases i with
          | zero => simp at h1 h2 h3; subst h1 h2 h3; exact .inl h4
          | succ i => exact .inr ⟨i, m', x', y', h1, h2, h3, h4⟩

/-! ### MODIFY and entry into LOST -/

/-- R9, R10: the image geometry and the mask. -/
theorem Station.setGeometry_eq (e : Station) (length : Option Nat) (mask : Option (List Byte)) :
    e.setGeometry length mask =
      { e with
        imageLength := length.getD e.imageLength
        watchMask :=
          mask.getD (if length.getD e.imageLength = e.imageLength then e.watchMask
            else List.replicate (length.getD e.imageLength) 0xFF#8)
        image := if length.getD e.imageLength = e.imageLength then e.image else none
        reportedImage := if length.getD e.imageLength = e.imageLength then e.reportedImage else none } := by
  unfold Station.setGeometry
  split <;> simp_all

/-- R7: the level, and the due time it leaves. -/
theorem Station.setLevel_eq (now : Clock) (inProgress : Bool) (e : Station) (level : Option Nat) :
    e.setLevel now inProgress level =
      { e with
        level := level.getD e.level
        nextDue :=
          if e.raisesPoll inProgress level then some (DueTime.atOnce now)
          else if e.state = .online ∧ level = some 0 then none
          else e.nextDue } := by
  unfold Station.setLevel
  cases level with
  | none => simp [Station.raisesPoll]
  | some l =>
    simp only [Option.getD_some, Option.some.injEq]
    split
    · rfl
    · split
      · next h => simp [h.2]
      · rfl

/-- R8: the period, and the due time it leaves. -/
theorem Station.setPeriod_eq (now : Clock) (e : Station) (period : Option Nat) :
    e.setPeriod now period =
      { e with
        period := period.getD e.period
        nextDue :=
          match period with
          | none => e.nextDue
          | some n =>
            if e.state = .online ∨ e.state = .suspect then e.nextDue.map (DueTime.pullIn now n) else e.nextDue } := by
  unfold Station.setPeriod
  cases period with
  | none => rfl
  | some n => cases e.state <;> simp

/-- R6 to R10: what the parts but the miss limit make of the entry. -/
theorem Station.modified_eq (now : Clock) (inProgress : Bool) (p : ModifyParams) (e : Station) :
    e.modified now inProgress p =
      { e with
        imageLength := p.imageLength.getD e.imageLength
        watchMask :=
          p.watchMask.getD (if p.imageLength.getD e.imageLength = e.imageLength then e.watchMask
            else List.replicate (p.imageLength.getD e.imageLength) 0xFF#8)
        image := if p.imageLength.getD e.imageLength = e.imageLength then e.image else none
        reportedImage := if p.imageLength.getD e.imageLength = e.imageLength then e.reportedImage else none
        level := p.level.getD e.level
        period := p.period.getD e.period
        reportMode := p.reportMode.getD e.reportMode
        nextDue := (e.modified now inProgress p).nextDue } := by
  simp only [Station.modified, Station.setMode, Station.setPeriod_eq, Station.setLevel_eq, Station.setGeometry_eq]

/-- R7, R8: the due time they leave. -/
theorem Station.modified_nextDue (now : Clock) (inProgress : Bool) (p : ModifyParams) (e : Station) :
    (e.modified now inProgress p).nextDue =
      match p.period with
      | none =>
        if e.raisesPoll inProgress p.level then some (DueTime.atOnce now)
        else if e.state = .online ∧ p.level = some 0 then none
        else e.nextDue
      | some n =>
        if e.state = .online ∨ e.state = .suspect then
          (if e.raisesPoll inProgress p.level then some (DueTime.atOnce now)
            else if e.state = .online ∧ p.level = some 0 then none
            else e.nextDue).map (DueTime.pullIn now n)
        else
          (if e.raisesPoll inProgress p.level then some (DueTime.atOnce now)
            else if e.state = .online ∧ p.level = some 0 then none
            else e.nextDue) := by
  have geometry : ∀ f : Station, f = e.setGeometry p.imageLength p.watchMask →
      f.raisesPoll inProgress p.level = e.raisesPoll inProgress p.level := by
    rintro f rfl
    rw [Station.setGeometry_eq]; rfl
  simp only [Station.modified, Station.setMode, Station.setPeriod_eq, Station.setLevel_eq, geometry _ rfl,
    (show (e.setGeometry p.imageLength p.watchMask).state = e.state by rw [Station.setGeometry_eq]),
    (show (e.setGeometry p.imageLength p.watchMask).nextDue = e.nextDue by rw [Station.setGeometry_eq])]

/-- R6, R11: a MODIFY that brings no entry into LOST changes the entry alone. -/
theorem State.modifyStation_of_kept {p : ModifyParams} {s : State}
    (h : (s.station p.address).state = .suspect → ∀ l, p.missLimit = some l → (s.station p.address).missCount < l) :
    s.modifyStation p =
      s.setStation p.address
        { (s.station p.address).modified s.clock (s.engine.pollInProgress p.address) p with
          missLimit := p.missLimit.getD (s.station p.address).missLimit
          missCount :=
            if (s.station p.address).state = .lost then p.missLimit.getD (s.station p.address).missCount
            else (s.station p.address).missCount } := by
  have start : s.modifyStation p =
      (s.setStation p.address
        ((s.station p.address).modified s.clock (s.engine.pollInProgress p.address) p)).setMissLimit p.address
        p.missLimit := rfl
  rw [start, Station.modified_eq]
  unfold State.setMissLimit
  cases hl : p.missLimit with
  | none => simp
  | some l =>
    simp only [State.station_setStation_self, State.setStation_setStation, Option.getD_some]
    cases hs : (s.station p.address).state with
    | suspect =>
      have := h hs l hl
      rw [if_neg (by omega)]; rfl
    | vacant => rfl
    | probing => rfl
    | online => rfl
    | lost => rfl
    | parked => rfl

/-- R11: a miss limit at or below the miss count of a SUSPECT station brings it into LOST. -/
theorem State.modifyStation_of_lost {p : ModifyParams} {s : State} {l : Nat}
    (state : (s.station p.address).state = .suspect) (given : p.missLimit = some l)
    (reached : l ≤ (s.station p.address).missCount) :
    s.modifyStation p =
      (s.setStation p.address
        { (s.station p.address).modified s.clock (s.engine.pollInProgress p.address) p with
          missLimit := l }).enterLost p.address .suspect := by
  have start : s.modifyStation p =
      (s.setStation p.address
        ((s.station p.address).modified s.clock (s.engine.pollInProgress p.address) p)).setMissLimit p.address
        p.missLimit := rfl
  rw [start, Station.modified_eq]
  unfold State.setMissLimit
  simp only [given, State.station_setStation_self, State.setStation_setStation, state]
  rw [if_pos reached]

/-- A report placed leaves the queue non-empty. -/
theorem placeReport_ne_nil (r : Report) (queue : List ReportEntry) : placeReport r queue ≠ [] := by
  cases queue with
  | nil => simp [placeReport]
  | cons e rest =>
    unfold placeReport
    split <;> simp

/-- R22, R36, R49: everything entry into LOST does. -/
theorem State.enterLost_eq {s : State} (nodup : (s.requests.map fun r => r.tag).Nodup) (a : Addr)
    (fromState : StationState) :
    s.enterLost a fromState =
      { s.setStation a
          { s.station a with
            state := .lost
            missCount := (s.station a).missLimit
            reportedImage := none
            nextDue := some (DueTime.ahead s.clock s.engine.params.probeInterval) } with
        requests := s.requests.map fun r =>
          if r.state = .waiting ∧ r.station = some a then { r with state := .reported } else r
        reports :=
          { s.reports with
            queue :=
              placeReport (.station a fromState .lost .misses none 0) s.reports.queue ++
                (s.requests.filter (Request.waitsFor a)).map fun r =>
                  ⟨.result r.tag r.kind .stationLost r.attempts r.lastOutcome [], .unsent⟩
            attn := true } } := by
  unfold State.enterLost
  rw [State.removeWaiting_eq (by simpa using nodup)]
  simp only [State.putReport, State.withReports, State.withStation, State.setStation, ReportUnit.setQueue,
    List.isEmpty_eq_false_iff.2 (placeReport_ne_nil _ _), Bool.not_false, Bool.true_or]

end Sys2Proof.Machine
end

