-- ==== Sys2Proof/Laws/Scheduling.lean ====
section
/-!
SUPPORT. What the selection is built from: where a report is placed, the best of a list of candidates, the eligible
requests, and the two things a selection can do.
-/

namespace Sys2Proof.Machine

/-! ### Where a report is placed -/

/-- R136: a report that merges into no UNSENT entry joins the tail. -/
theorem placeReport_append {new : Report} {queue : List ReportEntry}
    (h : ∀ e ∈ queue, e.status = .unsent → e.report.merge? new = none) :
    placeReport new queue = queue ++ [⟨new, .unsent⟩] := by
  induction queue with
  | nil => rfl
  | cons e rest ih =>
    obtain ⟨report, status⟩ := e
    have h1 := h ⟨report, status⟩ (by simp)
    have h2 := ih fun x hx => h x (by simp [hx])
    cases status with
    | unsent =>
      simp at h1
      simp [placeReport, h1, h2]
    | sent q => simp [placeReport, h2]

/-- R137: a report merges into the first UNSENT entry of its kind and subject, in place. -/
theorem placeReport_merge {new old merged : Report} {before after : List ReportEntry}
    (front : ∀ e ∈ before, e.status = .unsent → e.report.merge? new = none) (h : old.merge? new = some merged) :
    placeReport new (before ++ ⟨old, .unsent⟩ :: after) = before ++ ⟨merged, .unsent⟩ :: after := by
  induction before with
  | nil => simp [placeReport, h]
  | cons e before ih =>
    obtain ⟨report, status⟩ := e
    have h1 := front ⟨report, status⟩ (by simp)
    have h2 := ih fun x hx => front x (by simp [hx])
    cases status with
    | unsent =>
      simp at h1
      simp [placeReport, h1, h2]
    | sent q => simp [placeReport, h2]

theorem satIncByte_eq (m : Byte) : satIncByte m = if m = 0xFF#8 then 0xFF#8 else m + 1 := by revert m; decide

/-! ### The best candidate -/

/-- R63: the order of the candidates. -/
theorem State.beats_iff (s : State) (c b : Candidate) : s.beats c b = true ↔ s.value b < s.value c ∨
        s.value b = s.value c ∧
          (b.classRank < c.classRank ∨
            b.classRank = c.classRank ∧ b.lateness s.clock < c.lateness s.clock) := by
  simp [State.beats]

/-- R63: the best of a list beats what stands before it and is not beaten by what stands behind it. -/
theorem State.bestOf_spec (s : State) (l : List Candidate) :
    (s.bestOf l = none ↔ l = []) ∧
      ∀ c, s.bestOf l = some c →
        ∃ before after, l = before ++ c :: after ∧ (∀ b ∈ before, s.beats c b = true) ∧
          ∀ b ∈ after, ¬ s.beats b c = true := by
  induction l with
  | nil => simp [State.bestOf]
  | cons x rest ih =>
    cases hb : s.bestOf rest with
    | none =>
      have := ih.1.1 hb; subst this
      simp [State.bestOf]
      exact ⟨[], [], by simp⟩
    | some b =>
      obtain ⟨be, af, h1, h2, h3⟩ := ih.2 b hb
      simp only [State.bestOf, hb]
      by_cases h : s.beats b x = true
      · simp [h]
        exact ⟨x :: be, af, by simp [h1], by simpa [h] using h2, by simpa using h3⟩
      · simp [h]
        refine ⟨[], rest, by simp, by simp, ?_⟩
        intro y hy
        simp only [Bool.not_eq_true] at *
        rw [h1] at hy
        have hy' : y ∈ be ∨ y = b ∨ y ∈ af := by simpa using hy
        by_contra hc
        simp only [Bool.not_eq_false] at hc
        have h' := (not_iff_not.2 (State.beats_iff s b x)).1 (by simp [h])
        rw [State.beats_iff] at hc
        rcases hy' with k | rfl | k
        · have := h2 y k; rw [State.beats_iff] at this; omega
        · exact h' hc
        · have := (not_iff_not.2 (State.beats_iff s y b)).1 (by simp [h3 y k]); omega

/-! ### Eligible requests -/

/-- R37: a request is eligible where it is WAITING and no earlier request for its station is in the Call Queue. -/
theorem mem_eligibleAfter (seen : List Dest) (l : List Request) (r : Request) :
    r ∈ eligibleAfter seen l ↔
      ∃ earlier later, l = earlier ++ r :: later ∧ r.state = .waiting ∧ r.station ∉ seen ∧
        ∀ q ∈ earlier, q.station = r.station → q.state = .reported := by
  induction l generalizing seen with
  | nil => simp [eligibleAfter]
  | cons x rest ih =>
    have step : (∃ earlier later, x :: rest = earlier ++ r :: later ∧ r.state = .waiting ∧ r.station ∉ seen ∧
        ∀ q ∈ earlier, q.station = r.station → q.state = .reported) ↔ (x = r ∧ r.state = .waiting ∧ r.station ∉ seen) ∨ (∃ earlier later, rest = earlier ++ r :: later ∧ r.state = .waiting ∧ r.station ∉ seen ∧ (x.station = r.station → x.state = .reported) ∧
        ∀ q ∈ earlier, q.station = r.station → q.state = .reported) := by
      constructor
      · rintro ⟨e, l, h1, h2, h3, h4⟩
        cases e with
        | nil => simp at h1; exact .inl ⟨h1.1, h2, h3⟩
        | cons y e => simp at h1; obtain ⟨rfl, rfl⟩ := h1; exact .inr ⟨e, l, rfl, h2, h3, h4 x (by simp), fun q hq => h4 q (by simp [hq])⟩
      · rintro (⟨rfl, h2, h3⟩ | ⟨e, l, rfl, h2, h3, h4, h5⟩)
        · exact ⟨[], rest, rfl, h2, h3, by simp⟩
        · refine ⟨x :: e, l, rfl, h2, h3, ?_⟩
          intro q hq; rcases List.mem_cons.1 hq with rfl | hq
          · exact h4
          · exact h5 q hq
    rw [step]
    unfold eligibleAfter
    cases hx : x.state with
    | reported =>
      simp only [ih]
      constructor
      · rintro ⟨e, l, h1, h2, h3, h4⟩; exact .inr ⟨e, l, h1, h2, h3, fun _ => trivial, h4⟩
      · rintro (⟨rfl, h2, h3⟩ | ⟨e, l, h1, h2, h3, h4, h5⟩)
        · simp [h2] at hx
        · exact ⟨e, l, h1, h2, h3, h5⟩
    | onLine =>
      simp only [ih, List.mem_cons, not_or]
      constructor
      · rintro ⟨e, l, h1, h2, h3, h4⟩; exact .inr ⟨e, l, h1, h2, h3.2, fun h => absurd h.symm h3.1, h4⟩
      · rintro (⟨rfl, h2, h3⟩ | ⟨e, l, h1, h2, h3, h4, h5⟩)
        · simp [h2] at hx
        · exact ⟨e, l, h1, h2, ⟨fun h => by simpa using h4 h.symm, h3⟩, h5⟩
    | waiting =>
      simp only
      split
      · next hc =>
        have hc' : x.station ∈ seen := by simpa using hc
        rw [ih]
        constructor
        · rintro ⟨e, l, h1, h2, h3, h4⟩; exact .inr ⟨e, l, h1, h2, h3, fun h => absurd (h ▸ hc') h3, h4⟩
        · rintro (⟨rfl, h2, h3⟩ | ⟨e, l, h1, h2, h3, h4, h5⟩)
          · exact absurd hc' h3
          · exact ⟨e, l, h1, h2, h3, h5⟩
      · next hc =>
        have hc' : x.station ∉ seen := by simpa using hc
        rw [List.mem_cons, ih]
        simp only [List.mem_cons, not_or]
        constructor
        · rintro (rfl | ⟨e, l, h1, h2, h3, h4⟩)
          · exact .inl ⟨rfl, hx, hc'⟩
          · exact .inr ⟨e, l, h1, h2, h3.2, fun h => absurd h.symm h3.1, h4⟩
        · rintro (⟨rfl, h2, h3⟩ | ⟨e, l, h1, h2, h3, h4, h5⟩)
          · exact .inl rfl
          · exact .inr ⟨e, l, h1, h2, ⟨fun h => by simpa using h4 h.symm, h3⟩, h5⟩

/-- The eligible requests stand in acceptance order. -/
theorem eligibleAfter_sublist (seen : List Dest) (l : List Request) : (eligibleAfter seen l).Sublist l := by
  induction l generalizing seen with
  | nil => simp [eligibleAfter]
  | cons x rest ih =>
    unfold eligibleAfter
    repeat' split
    all_goals first | exact (ih _).cons _ | exact (ih _).cons_cons _

/-! ### The two things a selection can do -/

/-- R64, R66: a selection commits the best candidate, or does nothing. -/
theorem State.select_cases (s : State) :
    s.select = s ∨
      ∃ c, s.maySelect = true ∧ s.bestOf s.candidates = some c ∧ c ∈ s.candidates ∧ s.select = s.commit c := by
  by_cases h : s.maySelect = true
  · cases hb : s.bestOf s.candidates with
    | none => exact .inl (by simp [State.select, hb])
    | some c =>
      obtain ⟨before, after, e, _⟩ := (s.bestOf_spec s.candidates).2 c hb
      exact .inr ⟨c, h, rfl, by simp [e], by simp [State.select, h, hb]⟩
  · exact .inl (by simp [State.select, h])

end Sys2Proof.Machine
end

