-- ==== Sys2Proof/Laws/Time.lean ====
section
/-!
SUPPORT. Cycles of CLK add up: n and then m cycles with nothing taken are n + m cycles at once.
-/

namespace Sys2Proof.Machine

theorem addCycles_add (m n c : Nat) (_ : 0 < n) : addCycles m (addCycles n c) = addCycles (m + n) c := by
  simp only [addCycles]; omega

theorem State.elapse_add (n : Nat) (s : State) : (s.elapse (n + 1)).elapse 1 = s.elapse (n + 1 + 1) := by
  unfold State.elapse
  by_cases h : s.held = true
  · simp [h]
  · simp only [h]
    simp only [Bool.false_eq_true, if_false]
    rw [if_neg]
    · congr 1
      · simp only [LineEngine.mk.injEq, true_and, and_true, Option.map_map]
        refine ⟨?_, ?_⟩
        · cases s.engine.exchange with
          | none => rfl
          | some x => cases x with | mk r p => cases p <;> simp [Phase.elapse, addCycles_add, Nat.add_comm]
        · rw [addCycles_add _ _ _ (by omega)]; congr 1; omega
      · simp only [HostLink.mk.injEq, true_and, and_true, Option.map_map]
        refine ⟨?_, ?_⟩
        · cases s.host.hrx <;> simp [HrxLevel.elapse, addCycles_add, Nat.add_comm]
        · cases s.host.tx <;> simp [addCycles_add, Nat.add_comm]
      · simp only [msAfter, Config.cyclesPerMs]
        rw [BitVec.add_assoc, ← BitVec.ofNat_add]
        congr 2; omega
      · simp only [Config.cyclesPerMs]; omega
    · exact h

end Sys2Proof.Machine
end

