-- ==== Sys2Proof/Tests/Slice0.lean ====
section
/-!
SUPPORT. The model's own tests: ill-formed commands that the check refuses, values the manual works out, one small
test for each row, and for every statement a state and operands that meet its hypotheses.
-/

namespace Sys2Proof.Tests

/- Each test waits for the kernel, and one thread for each of them would take more memory than there is. -/
set_option Elab.async false

open Sys2Proof Sys2Proof.Machine

/-! ### Small states -/

/-- Station 7 of section 12.1, once found. -/
def online : Station :=
  { Station.reset with
    state := .online, level := 3, period := 200, imageLength := 2, watchMask := [0xFF#8, 0xFF#8]
    expected := some ⟨0x1A20#16, 0x03#8⟩, identity := some ⟨0x1A20#16, 0x03#8⟩ }

/-- Station 7 at an entry. -/
def with7 (e : Station) : State := State.reset.setStation 6 e

/-- A poll of station 7 in a phase. -/
def poll7 (phase : Phase) : Exchange :=
  ⟨⟨.poll ⟨0, true, false⟩, some 6, .poll, [], none, some 2, false⟩, phase⟩

/-- A PUT to station 7, tag 0010h, with toggle 0, in a phase. -/
def put7 (phase : Phase) : Exchange :=
  ⟨⟨.request 0x0010#16, some 6, .put, [0x01#8], some false, none, false⟩, phase⟩

/-- The fallback broadcast in a phase. -/
def fallbackX (phase : Phase) : Exchange :=
  ⟨⟨.fallback, none, .bcast, [0x01#8], none, none, false⟩, phase⟩

/-- The request behind `put7`. -/
def request10 (state : RequestState) : Request :=
  ⟨0x0010#16, .put, some 6, 4, 2, some 500, [0x01#8], 0, 0, none, state⟩

/-- The exchange in progress in a role, with the framer and the quiet in CLK cycles. -/
def busy (role : LineRole) (x : Exchange) (framer : Framer) (quiet : Nat) (s : State) : State :=
  { s with
    engine :=
      { s.engine with
        role := role
        exchange := some x
        lde := match x.phase with
          | .sending _ _ _ => true
          | _ => false
        framer := framer
        quiet := quiet } }

/-- A poll of station 7 in progress in MASTER, at the clock value 20. -/
def polling (phase : Phase) (framer : Framer) (quiet : Nat) : State :=
  { busy .master (poll7 phase) framer quiet (with7 online) with clock := 20 }

/-- The PUT to station 7 in progress in a role, at the clock value 20. -/
def putting (role : LineRole) (phase : Phase) (framer : Framer) : State :=
  { busy role (put7 phase) framer 0 (with7 online) with clock := 20, requests := [request10 .onLine] }

/-- The fallback broadcast in progress. -/
def falling (role : LineRole) (phase : Phase) (quiet : Nat) : State :=
  { busy role (fallbackX phase) .ready quiet State.reset with
    fallback := ⟨100, some [0x01#8], none, role == .master, .broadcast⟩ }

def inRole (role : LineRole) (s : State) : State := { s with engine := { s.engine with role := role } }

/-- A response on HTX whose byte times have run. -/
def answered (s : State) : State :=
  { s with
    unit := { s.unit with responseSlot := some ⟨5#8, [0x10#8, 0x00#8]⟩ }
    host :=
      { s.host with
        cache := some ⟨5#8, [0x10#8, 0x00#8]⟩
        tx := some ⟨.response, hostFrame 0x81#8 5#8 [0x10#8, 0x00#8], .r115200, 20000⟩ } }

/-- A host frame on HRX from its lead byte to the byte before its last. -/
def received (kind seq : Byte) (body : List Byte) (s : State) : State :=
  (s.after .leadByte).receive ((hostFrame kind seq body).drop 1).dropLast

/-- HRX low for a time in CLK cycles, a break declared already or not. -/
def withHrxLow (elapsed : Nat) (declared : Bool) (s : State) : State :=
  { s with host := { s.host with hrx := .low elapsed declared } }

def lastByte (kind seq : Byte) (body : List Byte) : Byte := (hostFrame kind seq body).getLastD 0#8

/-- READY SENT as number 0, with the ack timer running. -/
def readySent : State :=
  { State.reset with
    reports :=
      { State.reset.reports with
        queue := [⟨.ready .power 0x02#8, .sent 0#8⟩]
        nextSeq := 1#8
        ackTimer := some ⟨0, 100⟩ } }

def stalled : State :=
  { readySent with
    reports := { readySent.reports with link := .stalled, roundCount := 8, ackTimer := none } }

/-- Two RESULT reports SENT as 20 and 21 and one IMAGE behind them, UNSENT. -/
def threeReports : State :=
  { State.reset with
    requests := [{ request10 .reported with tag := 0x0040#16 }, { request10 .reported with tag := 0x0041#16 }]
    reports :=
      { State.reset.reports with
        queue :=
          [⟨.result 0x0040#16 .put .done 1 (some .good) [], .sent 20#8⟩,
            ⟨.result 0x0041#16 .put .done 1 (some .good) [], .sent 21#8⟩, ⟨.image 6 1 [0#8] 0, .unsent⟩]
        nextSeq := 22#8
        resendPoint := some 20#8
        ackTimer := some ⟨0, 100⟩ } }

/-! ### Ill-formed commands -/

theorem test_wf_lengths :
    [Instr.identify 0 [], .status 0 [], .restart 0 [], .linkSetup 0 [], .fallbackSet 0 [], .lineSetup 0 [],
      .lineStart 0 [], .lineStop 0 [], .lineResume 0 [], .enrol 0 [], .modify 0 [], .park 0 [], .release 0 [],
      .stationQuery 0 [], .roster 0 [], .put 0 [], .get 0 [], .broadcast 0 [], .cancel 0 [],
      .queueQuery 0 [], .cachedResponse 0 [], .commandCodeUnknown 0 []].all Instr.wf = true := by decide

theorem test_wf_tooLong :
    let long := List.replicate 198 0#8
    [Instr.identify 0 long, .status 0 long, .restart 0 long, .linkSetup 0 long, .fallbackSet 0 long,
      .lineSetup 0 long, .lineStart 0 long, .lineStop 0 long, .lineResume 0 long, .enrol 0 long,
      .modify 0 long, .park 0 long, .release 0 long, .stationQuery 0 long, .roster 0 long, .put 0 long,
      .get 0 long, .broadcast 0 long, .cancel 0 long, .queueQuery 0 long,
      .cachedResponse 0 (0#8 :: long), .commandCodeUnknown 0 (0#8 :: long)].any Instr.wf = false := by decide +kernel

theorem test_wf_leadByteIsNotStray :
    (Instr.strayByte ⟨0xA7#8, .idle⟩).wf = false ∧ (Instr.strayByte ⟨0xA7#8, .errorHeld⟩).wf = true := by decide

theorem test_wf_lengthInRangeIsNotBad :
    (Instr.badLength 2#8).wf = false ∧ (Instr.badLength 200#8).wf = false ∧ (Instr.badLength 1#8).wf = true ∧
      (Instr.badLength 201#8).wf = true := by decide

theorem test_wf_brokenFrameNeedsAFramingError :
    (Instr.brokenFrame ⟨0#8, .idle⟩).wf = false ∧ (Instr.brokenFrame ⟨0#8, .errorReturned⟩).wf = true := by decide

theorem test_wf_telegramFaultNeedsAFault :
    (Instr.telegramFault ⟨32#8, .idle⟩).wf = false ∧ (Instr.telegramFault ⟨33#8, .idle⟩).wf = true := by decide

theorem test_wf_knownCodeIsNotUnknown :
    (Instr.commandCodeUnknown 0#8 [0x10#8]).wf = false ∧ (Instr.commandCodeUnknown 0#8 [0x45#8]).wf = true := by
  decide

/-! ### Values the manual works out -/

/-- R80: the CRC of the nine digits. -/
theorem test_crcOfNineDigits :
    crc16 [0x31#8, 0x32#8, 0x33#8, 0x34#8, 0x35#8, 0x36#8, 0x37#8, 0x38#8, 0x39#8] = 0x29B1#16 := by decide +kernel

/-- R58: anchor 49,750 and period 100, completed at 50,010, at 49,950 and at 49,949. -/
theorem test_periodGrid :
    let e := { online with period := 100 }
    let anchor : DueTime := ⟨49750, true, false⟩
    (e.nextOnGrid 50010 anchor).nextDue = some ⟨50050, false, false⟩ ∧
      (e.nextOnGrid 50010 anchor).pollOverruns = 2 ∧
      (e.nextOnGrid 49950 anchor).nextDue = some ⟨50050, false, false⟩ ∧
      (e.nextOnGrid 49949 anchor).nextDue = some ⟨49950, false, false⟩ ∧
      (e.nextOnGrid 49949 anchor).pollOverruns = 1 := by decide

/-- R58, R56: after a saturated lateness the grid is abandoned. -/
theorem test_saturatedGrid :
    (online.nextOnGrid 1000 ⟨5, true, true⟩).nextDue = some ⟨1200, false, false⟩ ∧
      (online.nextOnGrid 1000 ⟨5, true, true⟩).pollOverruns = 0xFFFF#16 := by decide

/-- Section 12.4: 2 + 700 / 100 is capped at 7, and 1 + 200 / 1,000 is 1. -/
theorem test_agedValues : agedValue 2 700 100 = 7 ∧ agedValue 1 200 1000 = 1 := by decide

/-- R200: the header of a PUT with toggle 1 and of a POLL. -/
theorem test_callHeaders : callHeader .put true = 0x21#8 ∧ callHeader .poll false = 0x10#8 := by decide

/-- R140: STOPPED merged with CONTENTION is one report from STOPPING to YIELDED. -/
theorem test_lineReportsMerge :
    placeReport (.line .master .yielded .contention .echo 0)
        [⟨.line .stopping .off .stopped .none 0, .unsent⟩] =
      [⟨.line .stopping .yielded .contention .echo 1, .unsent⟩] := by decide

/-! ### Each row once -/

/-- The body of the response a command gets. -/
def answerOf (c : Instr) (s : State) : Option (List Byte) := (s.after c).unit.responseSlot.map fun r => r.body

theorem test_identify :
    answerOf (.identify 1 []) State.reset =
      some [0x10#8, 0#8, 0x52#8, 0xC1#8, 0x31#8, 0xB0#8, 0x02#8, 0x1F#8, 0x10#8, 0x60#8] := by decide +kernel

theorem test_status :
    (answerOf (.status 1 [0#8]) State.reset).map (fun body => body.take 11) =
      some [0x11#8, 0#8, 0#8, 0#8, 0#8, 0#8, 0#8, 1#8, 0#8, 0#8, 0#8] := by decide +kernel

theorem test_restart : (State.reset.after (.restart 1 [])).unit.pendingRestart = true := by decide +kernel

theorem test_linkSetup :
    let t := State.reset.after (.linkSetup 1 [2#8, 0x01#8, 0xF4#8])
    t.host.pendingRate = some .r460800 ∧ t.host.rate = .r115200 ∧ t.reports.ackTimeout = 500 := by decide +kernel

theorem test_fallbackSet :
    (State.reset.after (.fallbackSet 1 [0x03#8, 0xE8#8, 1#8, 0x55#8])).fallback =
      ⟨1000, some [0x55#8], none, false, .none⟩ := by decide +kernel

theorem test_lineSetup :
    (State.reset.after (.lineSetup 1 [5#8, 4#8, 10#8, 0x00#8, 0x64#8, 0x00#8, 0x0A#8])).engine.params =
      ⟨.r500000, 4, 10, 100, 10⟩ := by decide +kernel

theorem test_lineStart :
    (State.reset.after (.lineStart 1 [])).engine.role = .master ∧
      answerOf (.lineStart 1 []) State.reset = some [0x21#8, 0#8, 1#8] := by decide +kernel

theorem test_lineStop :
    ((inRole .master State.reset).after (.lineStop 1 [])).engine.role = .off ∧
      ((polling .receiving .ready 0).after (.lineStop 1 [])).engine.role = .stopping := by decide +kernel

theorem test_lineResume :
    answerOf (.lineResume 1 []) { inRole .yielded State.reset with clock := 199 } = some [0x23#8, 0x0C#8, 3#8] ∧
      answerOf (.lineResume 1 []) { inRole .yielded State.reset with clock := 200 } = some [0x23#8, 0#8, 1#8] := by
  decide +kernel

theorem test_enrol :
    (State.reset.after (.enrol 1 [7#8, 3#8, 0#8, 200#8, 2#8, 0#8, 0#8, 0#8, 1#8, 0x1A#8, 0x20#8, 3#8])).station 6 =
      { Station.reset with
        state := .probing, level := 3, period := 200, imageLength := 2, watchMask := [0xFF#8, 0xFF#8]
        expected := some ⟨0x1A20#16, 0x03#8⟩, nextDue := some ⟨0, true, false⟩ } := by decide +kernel

theorem test_modify :
    let t := (with7 online).after (.modify 1 [7#8, 1#8, 0#8, 0#8, 1#8, 4#8, 0#8, 0#8, 0#8])
    (t.station 6).level = 0 ∧ (t.station 6).imageLength = 4 ∧
      (t.station 6).watchMask = [0xFF#8, 0xFF#8, 0xFF#8, 0xFF#8] := by decide +kernel

theorem test_park :
    let t := { with7 online with requests := [request10 .waiting] }.after (.park 1 [7#8])
    (t.station 6).state = .parked ∧ t.requests = [request10 .reported] ∧
      t.reports.queue.getLast? = some ⟨.result 0x0010#16 .put .cancelled 0 none [], .unsent⟩ := by decide +kernel

theorem test_release : ((with7 online).after (.release 1 [7#8])).station 6 = Station.reset := by decide +kernel

theorem test_stationQuery :
    (answerOf (.stationQuery 1 [7#8]) (with7 online)).map List.length = some 49 ∧
      answerOf (.stationQuery 1 [0#8]) (with7 online) = some [0x34#8, 3#8] := by decide +kernel

theorem test_roster : answerOf (.roster 1 []) (with7 online) = some [0x35#8, 0#8, 7#8, 2#8] := by decide +kernel

theorem test_put :
    answerOf (.put 1 [0#8, 0x10#8, 7#8, 4#8, 2#8, 0x01#8, 0xF4#8, 1#8, 1#8]) (with7 online) =
        some [0x40#8, 0#8, 0#8, 0x10#8, 1#8] ∧
      ((with7 online).after (.put 1 [0#8, 0x10#8, 7#8, 4#8, 2#8, 0x01#8, 0xF4#8, 1#8, 1#8])).requests =
        [request10 .waiting] := by decide +kernel

theorem test_get :
    answerOf (.get 1 [0#8, 0x10#8, 7#8, 4#8, 2#8, 0#8, 0#8, 0#8]) (with7 online) =
        some [0x41#8, 0#8, 0#8, 0x10#8, 1#8] ∧
      answerOf (.get 1 [0#8, 0x10#8, 8#8, 4#8, 2#8, 0#8, 0#8, 0#8]) (with7 online) = some [0x41#8, 7#8] := by
  decide +kernel

theorem test_broadcast :
    answerOf (.broadcast 1 [0#8, 0x10#8, 4#8, 0#8, 0#8, 1#8, 9#8]) State.reset =
      some [0x42#8, 0#8, 0#8, 0x10#8, 1#8] := by decide +kernel

theorem test_cancel :
    answerOf (.cancel 1 [0#8, 0x10#8]) { with7 online with requests := [request10 .waiting] } = some [0x43#8, 0#8] ∧
      answerOf (.cancel 1 [0#8, 0x10#8]) (putting .master .gap .ready) = some [0x43#8, 0x0B#8] := by decide +kernel

theorem test_queueQuery :
    answerOf (.queueQuery 1 []) { with7 online with requests := [request10 .waiting] } =
      some [0x44#8, 0#8, 0#8, 0x10#8, 7#8, 1#8, 0#8, 0#8] := by decide +kernel

/-- R163: the sequence of the command last executed is answered from the cache, another body or not. -/
theorem test_cachedResponse :
    let s := { State.reset with host := { State.reset.host with cache := some ⟨5#8, [0x10#8, 0x00#8]⟩ } }
    answerOf (.cachedResponse 5 [0x22#8]) s = some [0x10#8, 0#8] ∧ answerOf (.cachedResponse 6 [0x22#8]) s = none := by
  decide +kernel

theorem test_commandCodeUnknown :
    answerOf (.commandCodeUnknown 1 [0x45#8, 1#8]) State.reset = some [0x45#8, 2#8] ∧
      answerOf (.commandCodeUnknown 1 []) State.reset = some [0#8, 1#8] := by decide +kernel

theorem test_strayByte :
    (State.reset.after (.strayByte ⟨0x41#8, .errorHeld⟩)).host.counters.strayBytes = 1 ∧
      (State.reset.after (.strayByte ⟨0x41#8, .errorHeld⟩)).host.hrx = .low 208 false := by decide +kernel

theorem test_badLength :
    ((State.reset.after .leadByte).after (.badLength 201#8)).host.counters.badLengths = 1 ∧
      ((State.reset.after .leadByte).after (.badLength 200#8)).host.counters.badLengths = 0 := by decide +kernel

theorem test_brokenFrame :
    ((State.reset.after .leadByte).after (.brokenFrame ⟨2#8, .errorReturned⟩)).host.counters.brokenFrames = 1 := by
  decide +kernel

/-- R157, R181: a pause of 20 ms by the millisecond clock is not yet too long, one of 21 ms is. -/
theorem test_framePauseTimeout :
    let s := State.reset.after .leadByte
    (((s.elapse 335999).after .framePauseTimeout).host.counters.brokenFrames = 0) ∧
      (((s.elapse 336000).after .framePauseTimeout).host.counters.brokenFrames = 1) := by decide +kernel

theorem test_crcError :
    ((received 0x01#8 5#8 [0x10#8] State.reset).after
        (.crcError (lastByte 0x01#8 5#8 [0x10#8] + 1#8))).host.counters.crcErrors = 1 := by decide +kernel

theorem test_commandFrame :
    (answerOf (.commandFrame (lastByte 0x01#8 5#8 [0x10#8])) (received 0x01#8 5#8 [0x10#8] State.reset)).map
      (fun body => body.take 2) = some [0x10#8, 0#8] := by decide +kernel

/-- Section 12.8: an ACK of 21 removes both RESULT reports and releases their tags. -/
theorem test_ackFrame :
    let t := (received 0x02#8 21#8 [] threeReports).after (.ackFrame (lastByte 0x02#8 21#8 []))
    t.requests = [] ∧ t.reports.queue = [⟨.image 6 1 [0#8] 0, .unsent⟩] ∧ t.reports.ackTimer = none ∧
      t.reports.resendPoint = none ∧ t.reports.attn = true := by decide +kernel

theorem test_unknownKindFrame :
    let t := (received 0x7F#8 1#8 [] stalled).after (.unknownKindFrame (lastByte 0x7F#8 1#8 []))
    t.host.counters.strayBytes = 1 ∧ t.reports.link = .flowing ∧ t.reports.resendPoint = some 0#8 := by decide +kernel

/-- R169: a byte 00h has been low for nine and a half bit times at the middle of its stop bit. -/
theorem test_lowOfAByte :
    HrxLevel.after .r115200 ⟨0x00#8, .errorHeld⟩ = .low (19 * 16000000 / 230400) false ∧
      HrxLevel.after .r115200 ⟨0x1F#8, .errorHeld⟩ = .low (7 * 16000000 / 230400) false ∧
      HrxLevel.after .r115200 ⟨0xFF#8, .errorHeld⟩ = .low (16000000 / 230400) false ∧
      HrxLevel.after .r115200 ⟨0x00#8, .errorReturned⟩ = .high := by decide +kernel

/-- R169: HRX low from the start bit of a byte 00h is a break after 1 ms, and one break only. -/
theorem test_break :
    let s := (answered State.reset).after (.strayByte ⟨0x00#8, .errorHeld⟩)
    let t := (s.elapse 14681).after .lineBreak
    ((s.elapse 14680).after .lineBreak).host.counters.breaks = 0 ∧
      t.unit.responseSlot = none ∧ t.host.tx = none ∧ t.host.counters.breaks = 1 ∧
      ((t.elapse 32000).after .lineBreak).host.counters.breaks = 1 ∧
      ((answered State.reset).after .lineBreak).host.counters.breaks = 0 := by decide +kernel

/-- R169, R186: HRX low through a reset is a break 1 ms after its end, and till it is high no byte is recognised. -/
theorem test_lowThroughReset :
    let s := ((withHrxLow 12000 false State.reset).after .nrstAssert).after .nrstRelease
    s.host.hrx = .low 0 false ∧ (s.after .leadByte).host.receiver = .hunting ∧
      ((s.elapse 15999).after .lineBreak).host.counters.breaks = 0 ∧
      ((s.elapse 16000).after .lineBreak).host.counters.breaks = 1 ∧
      (((State.reset.after .nrstAssert).after .lineBreak).after .nrstRelease).host.hrx = .low 0 false ∧
      ((s.after .hrxIdleReturn).after .leadByte).host.receiver = .assembling [] 0 := by decide +kernel

theorem test_responseFrameBegin :
    let t := { State.reset with unit := ⟨some ⟨5#8, [0x22#8, 0#8, 0#8]⟩, false⟩ }.after .responseFrameBegin
    t.host.tx.map (fun f => (f.source, f.bytes.take 7)) =
      some (.response, [0xA7#8, 5#8, 0x81#8, 5#8, 0x22#8, 0#8, 0#8]) := by decide +kernel

/-- R182: the full reset of RESTART comes with the delivery. -/
theorem test_responseDelivered :
    ((answered State.reset).after .responseDelivered).unit.responseSlot = none ∧
      ({ answered State.reset with unit := ⟨some ⟨5#8, []⟩, true⟩ }.after .responseDelivered).reports.queue =
        [⟨.ready .restart 0x02#8, .unsent⟩] := by decide +kernel

theorem test_reportFrameBegin :
    let t := State.reset.after .reportFrameBegin
    t.reports.queue = [⟨.ready .power 0x02#8, .sent 0#8⟩] ∧ t.reports.nextSeq = 1 ∧
      t.reports.ackTimer = some ⟨0, 100⟩ := by decide +kernel

theorem test_reportFrameEnd :
    let t := State.reset.after .reportFrameBegin
    ((t.elapse 12499).after .reportFrameEnd).host.tx.isSome = true ∧
      ((t.elapse 12500).after .reportFrameEnd).host.tx = none := by decide +kernel

theorem test_ackTimerExpiry :
    ({ readySent with clock := 99 }.after .ackTimerExpiry).reports.roundCount = 0 ∧
      ({ readySent with clock := 100 }.after .ackTimerExpiry).reports.resendPoint = some 0#8 := by decide +kernel

theorem test_deadlineExpiry :
    let s := { with7 online with requests := [request10 .waiting] }
    ({ s with clock := 499 }.after (.deadlineExpiry 0x0010#16)).requests = [request10 .waiting] ∧
      ({ s with clock := 500 }.after (.deadlineExpiry 0x0010#16)).reports.queue.getLast? =
        some ⟨.result 0x0010#16 .put .expired 0 none [], .unsent⟩ := by decide +kernel

/-- R64: the due time reached brings about the selection of its poll. -/
theorem test_dueTimeReached :
    let s := { inRole .master (with7 { online with nextDue := some ⟨20, false, false⟩ }) with clock := 20 }
    ((s.after (.dueTimeReached 6)).engine.exchange.map fun x => x.record.origin) =
      some (.poll ⟨20, true, false⟩) := by decide +kernel

theorem test_latenessSaturated :
    ({ with7 { online with nextDue := some ⟨0, true, false⟩ } with clock := 2147483647 }.after
        (.latenessSaturated (.entry 6))).station 6 =
      { online with nextDue := some ⟨0, true, true⟩ } := by decide +kernel

/-- R92, R75: 3 character times at 57,600 bit/s are 8,333.3 cycles of CLK. -/
theorem test_sendStart :
    ((polling .gap .ready 8333).after .sendStart).engine.lde = false ∧
      ((polling .gap .ready 8334).after .sendStart).engine.lde = true := by decide +kernel

theorem test_callCharacterSent :
    ((polling (.sending 2778 0 0) .ready 0).after .callCharacterSent).engine.exchange =
      some (poll7 (.sending 2778 1 0)) := by decide +kernel

/-- R96, R98: the echo of the last character ends the call; one that differs, or comes more than 2 character times
(5,555.6 cycles of CLK) after its character, is a collision. -/
theorem test_echoReceived :
    let late (n : Nat) := polling (.sending n 5 4) .ready 0
    let last := (poll7 .gap).record.call.getLastD 0#8
    ((late 19444).after (.echoReceived ⟨last, .idle⟩)).engine.exchange = some (poll7 (.await 20 false)) ∧
      ((late 14000).after (.echoReceived ⟨last + 1#8, .idle⟩)).engine.role = .yielded ∧
      ((late 19445).after (.echoReceived ⟨last, .idle⟩)).engine.role = .yielded := by decide +kernel

theorem test_echoTimeout :
    ((polling (.sending 8333 1 0) .ready 0).after .echoTimeout).engine.role = .master ∧
      ((polling (.sending 8334 1 0) .ready 0).after .echoTimeout).engine.counters.contentions = 1 := by decide +kernel

theorem test_replyTimeout :
    let t := (polling (.await 0 false) .ready 0).after .replyTimeout
    (t.station 6).state = .suspect ∧ t.engine.counters.misses = 1 ∧
      ((polling (.await 0 true) .ready 0).after .replyTimeout).engine.counters.misses = 0 := by decide +kernel

theorem test_telegramStart :
    ((polling (.await 0 true) .ready 0).after (.telegramStart ⟨0x90#8, .idle⟩)).engine.exchange =
        some (poll7 .receiving) ∧
      ((polling (.await 0 true) .ready 0).after (.telegramStart ⟨0x10#8, .idle⟩)).engine.role = .yielded := by
  decide +kernel

theorem test_telegramCharacter :
    ((polling .receiving (.collecting [0x90#8]) 0).after (.telegramCharacter 7#8)).engine.framer =
      .collecting [0x90#8, 7#8] := by decide +kernel

theorem test_telegramFault :
    ((polling .receiving (.collecting [0x90#8, 7#8]) 0).after (.telegramFault ⟨33#8, .idle⟩)).engine.counters.misses =
      1 := by decide +kernel

theorem test_telegramPauseTimeout :
    ((polling .receiving (.collecting [0x90#8]) 5555).after .telegramPauseTimeout).engine.counters.misses = 0 ∧
      ((polling .receiving (.collecting [0x90#8]) 5556).after .telegramPauseTimeout).engine.counters.misses = 1 := by
  decide +kernel

/-- A DATA telegram of station 7 up to its CRC high character, and its CRC low character. -/
def dataTelegram (payload : List Byte) : List Byte × Byte :=
  let covered := [0x90#8, 7#8, natByte payload.length] ++ payload
  (covered ++ [(crc16 covered).extractLsb' 8 8], (crc16 covered).extractLsb' 0 8)

/-- R26, R27: a GOOD reply to a poll stores its image and reports it; of a wrong length it is a miss. -/
theorem test_telegramComplete :
    let t := (polling .receiving (.collecting (dataTelegram [1#8, 2#8]).1) 0).after
      (.telegramComplete (dataTelegram [1#8, 2#8]).2)
    (t.station 6).image = some [1#8, 2#8] ∧ t.engine.counters.goodReplies = 1 ∧
      t.reports.queue.getLast? = some ⟨.image 6 2 [1#8, 2#8] 0, .unsent⟩ ∧
      (((polling .receiving (.collecting (dataTelegram [1#8]).1) 0).after
        (.telegramComplete (dataTelegram [1#8]).2)).station 6).lastFault =
          some ⟨.garbled .badLength, .poll, 20⟩ := by decide +kernel

theorem test_trailingCharacter :
    ((busy .master (poll7 .gap) .skipping 50 State.reset).after
      (.trailingCharacter ⟨0#8, .errorHeld⟩)).engine.lrxHeld = true := by decide +kernel

theorem test_framerGapReached :
    ((polling .gap .skipping 8333).after .framerGapReached).engine.framer = .skipping ∧
      ((polling .gap .skipping 8334).after .framerGapReached).engine.framer = .ready := by decide +kernel

theorem test_lrxIdleReturn :
    let s := { State.reset with engine := { State.reset.engine with lrxHeld := true, quiet := 9 }, clock := 4 }
    (s.after .lrxIdleReturn).engine = { State.reset.engine with quietSince := 4 } := by decide +kernel

theorem test_broadcastSettled :
    let t := (falling .master .settle 8334).after .broadcastSettled
    t.engine.role = .off ∧ t.reports.queue.getLast? = some ⟨.line .master .off .fallback .sent 0, .unsent⟩ := by
  decide +kernel

theorem test_silenceTimerExpiry :
    let s := { inRole .master State.reset with fallback := ⟨100, none, some 0, false, .none⟩ }
    ({ s with clock := 99 }.after .silenceTimerExpiry).engine.role = .master ∧
      ({ s with clock := 100 }.after .silenceTimerExpiry).reports.queue.getLast? =
        some ⟨.line .master .off .fallback .omitted 0, .unsent⟩ := by decide +kernel

/-- R183, R184: a release of NRST after a supply failure is a reset of cause POWER. -/
theorem test_resetPins :
    let low := (with7 online).after .nrstAssert
    low.held = true ∧ low.reports.queue = [] ∧ low.after .nrstRelease = State.afterReset .pin false [] ∧
      ((low.after .supplyFail).after .powerUp).after .nrstRelease = State.reset := by decide +kernel

theorem test_supply :
    ((with7 online).after .supplyFail).held = true ∧
      ((with7 online).after .supplyFail).after .powerUp = State.reset := by decide +kernel

theorem test_leadAndFrameBytes :
    ((State.reset.after .leadByte).after (.frameByte 2#8)).host.receiver = .assembling [2#8] 0 := by decide +kernel

theorem test_hrxIdleReturn :
    (withHrxLow 16000 true State.reset).after .hrxIdleReturn = State.reset := by decide +kernel

theorem test_startBitConfirmed :
    ((polling (.await 0 false) .ready 0).after .startBitConfirmed).engine.exchange =
      some (poll7 (.await 0 true)) := by decide +kernel

theorem test_lineQuietSaturated :
    ({ State.reset with clock := 65534 }.after .lineQuietSaturated).engine.quietSaturated = false ∧
      ({ State.reset with clock := 65535 }.after .lineQuietSaturated).engine.quietSaturated = true := by decide +kernel

theorem test_oneMillisecond : (State.reset.elapse 16000).clock = 1 ∧ (State.reset.elapse 15999).clock = 0 := by
  decide +kernel


/-! ### States and operands that meet the hypotheses of each statement

One theorem for each statement that has hypotheses, one clause after another and at the boundaries of their ranges.
A hypothesis that only names a value (`base = …`, `t ↔ …`) is met by that value and does not stand here. -/

/-- The command of sequence 1 is carried out in this state, which the good CRC of its frame leaves as it is. -/
def carriesOut (s : State) : Bool :=
  !s.held && s.host.hrx == .high && s.host.readySlot == none && s.unit.responseSlot == none &&
    !s.host.isCached 1#8 && decide (s = s.goodFrame)

theorem carriesOut_takes (s : State) (h : carriesOut s = true) : s.takes 1#8 s := by
  simpa [carriesOut, State.takes, State.willCarryOut, State.commandUnitFree, and_assoc] using h

/-- A state in which the good CRC of the command's own frame ends STALLED and restarts the silence timer. -/
theorem witness_takes :
    let s₀ := { inRole .master stalled with fallback := ⟨100, none, none, false, .none⟩ }
    s₀.takes 1#8 s₀.goodFrame ∧ s₀.goodFrame ≠ s₀ := by
  unfold State.takes State.willCarryOut State.commandUnitFree; decide +kernel

/-- Station 7 SUSPECT one miss before it is lost, and LOST. -/
def suspect : Station := { online with state := .suspect, missCount := 2 }

def lost : Station := { online with state := .lost, missCount := 3 }

/-- A recovery poll and a probe of station 7. -/
def recovery7 (phase : Phase) : Exchange :=
  ⟨⟨.recoveryPoll ⟨0, true, false⟩, some 6, .poll, [], none, some 2, false⟩, phase⟩

def probe7 (phase : Phase) : Exchange := ⟨⟨.probe ⟨0, true, false⟩, some 6, .hail, [], none, none, false⟩, phase⟩

/-- The exchange once its station has been taken off. -/
def orphan (x : Exchange) : Exchange := { x with record := { x.record with orphaned := true } }

/-- An exchange in progress with station 7 at an entry, at the clock value 20; a request behind a PUT is live. -/
def calling (role : LineRole) (x : Exchange) (e : Station) : State :=
  { busy role x .ready 0 (with7 e) with
    clock := 20
    requests := if x.record.kind = .put then [request10 .onLine] else [] }

theorem witness_IdleStepIsOneCycleOfClk :
    (State.reset.pending = [] ∧ State.reset.subMs < 16000 ∧ State.reset.held = false) ∧
      (let s := State.reset.elapse 15999; s.pending = [] ∧ s.subMs = 15999 ∧ s.held = false) ∧
      (let s := State.reset.after .nrstAssert; s.pending = [] ∧ s.subMs < 16000 ∧ s.held = true) := by decide +kernel

/-- Each way into and out of reset, with HRX high and low. -/
theorem witness_FullResetLeavesResetValues :
    (let s := State.reset.after .nrstAssert; s.power = ⟨true, true, false⟩ ∧ s.host.hrx = .high) ∧
      (let s := (State.reset.after .nrstAssert).after .lineBreak; s.power = ⟨true, true, false⟩ ∧ s.host.hrx ≠ .high) ∧
      (let s := (State.reset.after .supplyFail).after .nrstAssert; s.power = ⟨true, false, true⟩) ∧
      (let s := State.reset.after .supplyFail; s.power = ⟨false, false, true⟩) ∧
      (let s := ((State.reset.after .supplyFail).after .nrstAssert).after .powerUp; s.power = ⟨true, true, true⟩) := by
  decide +kernel

theorem witness_ResetAbandonsAllWorkAndHolds :
    State.reset.power.nrstLow = false ∧ State.reset.power.supplyInRange = true ∧
      (State.reset.after .nrstAssert).power.nrstLow = true ∧
      (State.reset.after .supplyFail).power.supplyInRange = false ∧
      [Instr.leadByte, .framePauseTimeout, .identify 0 []].all
        (fun c => c != .nrstAssert && c != .nrstRelease && c != .powerUp && c != .supplyFail && c != .lineBreak &&
          c != .hrxIdleReturn) = true := by
  decide +kernel

theorem witness_IdentifyAnswersFixedValues : carriesOut State.reset = true := by decide +kernel

/-- Clear flags 0, 1 and 2. -/
theorem witness_StatusShowsTheViewThenClears :
    carriesOut State.reset = true ∧ (2#8 : Byte) ≠ 0#8 ∧ (2#8 : Byte) ≠ 1#8 := by decide +kernel

/-- The response delivered, and stopped by a break just due. -/
theorem witness_RestartFollowsItsResponse :
    carriesOut State.reset = true ∧
      (let s := { answered State.reset with unit := ⟨some ⟨5#8, [0x12#8, 0#8]⟩, true⟩ }
       s.held = false ∧ s.unit.pendingRestart = true ∧ s.host.tx.map TxFrame.source = some .response ∧
         s.host.tx.map TxFrame.ended = some true) ∧
      (let s := withHrxLow 16000 false { answered State.reset with unit := ⟨some ⟨5#8, [0x12#8, 0#8]⟩, true⟩ }
       s.held = false ∧ s.unit.pendingRestart = true ∧ s.host.tx.map TxFrame.source = some .response ∧
         s.host.hrx = .low 16000 false) := by decide +kernel

/-- Timeouts 20 and 2,000 with the rate codes 0 and 3; timeouts 19 and 2,001; rate code 4. -/
theorem witness_LinkSetupStoresTimeoutAndPendingRate :
    carriesOut State.reset = true ∧
      rangeLinkSetup (0#8, halfOf 0#8 20#8) = some ⟨.r115200, 20⟩ ∧
      rangeLinkSetup (3#8, halfOf 7#8 0xD0#8) = some ⟨.r921600, 2000⟩ ∧
      (0#8).toNat * 256 + (19#8).toNat < 20 ∧ 2000 < (7#8).toNat * 256 + (0xD1#8).toNat ∧ 4 ≤ (4#8).toNat := by
  decide +kernel

/-- Limits 0, 100 and 60,000 with payloads of 0, 1 and 32 bytes; limits 1, 99 and 60,001, a payload of 33. -/
theorem witness_FallbackSetStoresLimitAndPayload :
    (carriesOut State.reset && carriesOut (inRole .master State.reset)) = true ∧
      State.reset.fallback.fits State.reset.engine = true ∧
      (let s := inRole .master State.reset; s.fallback.fits s.engine = true) ∧
      rangeFallbackSet (0#16, []) = some ⟨0, none⟩ ∧
      rangeFallbackSet (100#16, [5#8]) = some ⟨100, some [5#8]⟩ ∧
      (rangeFallbackSet (60000#16, List.replicate 32 0#8)).isSome = true ∧
      [rangeFallbackSet (1#16, []), rangeFallbackSet (99#16, []), rangeFallbackSet (60001#16, []),
        rangeFallbackSet (0#16, List.replicate 33 0#8)].all Option.isNone = true := by decide +kernel

/-- The ends of every range, in OFF and in another role; a rate code of 6 and values beyond the ends. -/
theorem witness_LineSetupStoresParametersInOff :
    (carriesOut State.reset && carriesOut (inRole .yielded State.reset)) = true ∧
      State.reset.engine.role = .off ∧ (inRole .yielded State.reset).engine.role ≠ .off ∧
      rangeLineSetup ⟨0#8, 2#8, 2#8, 100#16, 10#16⟩ = some ⟨.r19200, 2, 2, 100, 10⟩ ∧
      rangeLineSetup ⟨5#8, 15#8, 250#8, 10000#16, 5000#16⟩ = some ⟨.r500000, 15, 250, 10000, 5000⟩ ∧
      [rangeLineSetup ⟨6#8, 2#8, 2#8, 100#16, 10#16⟩, rangeLineSetup ⟨0#8, 1#8, 2#8, 100#16, 10#16⟩,
        rangeLineSetup ⟨0#8, 2#8, 251#8, 100#16, 10#16⟩, rangeLineSetup ⟨0#8, 2#8, 2#8, 99#16, 10#16⟩,
        rangeLineSetup ⟨0#8, 2#8, 2#8, 100#16, 5001#16⟩].all Option.isNone = true := by decide +kernel

theorem witness_LineStartTakesTheLine :
    (carriesOut State.reset && carriesOut (inRole .master State.reset)) = true ∧
      State.reset.engine.role = .off ∧ (inRole .master State.reset).engine.role ≠ .off := by decide +kernel

theorem witness_LineStopLeavesTheLine :
    [inRole .stopping State.reset, inRole .yielded State.reset, inRole .master State.reset,
        polling .receiving .ready 0].all carriesOut = true ∧
      LineOk (inRole .yielded State.reset) ∧ (inRole .master State.reset).engine.exchange = none ∧
      (let s := polling .receiving .ready 0
       s.engine.role = .master ∧ s.engine.exchange = some (poll7 .receiving) ∧ (poll7 .receiving).phase ≠ .gap) := by
  unfold LineOk; decide +kernel

/-- A poll, recovery poll and probe in GAP whose anchors go back and are discarded; a request that waits again, has
expired, is cancelled and is lost with its station; the fallback broadcast. -/
theorem witness_LineStopInGapUndoesTheCommitment :
    (let s := falling .master .gap 0
     carriesOut s = true ∧ s.engine.role = .master ∧ s.engine.exchange = some (fallbackX .gap)) ∧
      (∀ p ∈ [(poll7 .gap, online), (recovery7 .gap, suspect), (probe7 .gap, { online with state := .probing }),
          (probe7 .gap, lost), (orphan (poll7 .gap), Station.reset), (poll7 .gap, suspect),
          (poll7 .gap, { online with level := 0 }), (orphan (recovery7 .gap), Station.reset), (recovery7 .gap, lost),
          (orphan (probe7 .gap), Station.reset), (probe7 .gap, online)],
        let s := calling .master p.1 p.2
        carriesOut s = true ∧ s.engine.role = .master ∧ s.engine.exchange = some p.1 ∧ p.1.phase = .gap ∧
          p.1.record.station = some 6 ∧ s.station 6 = p.2) ∧
      (∀ p ∈ [(put7 .gap, online, 20), (put7 .gap, online, 500), (orphan (put7 .gap), Station.reset, 20),
          (put7 .gap, lost, 20)],
        let s := { calling .master p.1 p.2.1 with clock := p.2.2 }
        carriesOut s = true ∧ s.engine.role = .master ∧ s.engine.exchange = some p.1 ∧ p.1.phase = .gap ∧
          p.1.record.origin = .request (request10 .onLine).tag ∧
          s.findRequest (request10 .onLine).tag = some (request10 .onLine) ∧
          p.1.record.station = (request10 .onLine).station ∧ (s.requests.map fun q => q.tag).Nodup ∧
          ∀ q ∈ s.requests, q.tag = (request10 .onLine).tag) ∧
      (request10 .onLine).deadlinePassed 20 = false ∧ (request10 .onLine).deadlinePassed 499 = false ∧
      (request10 .onLine).deadlinePassed 500 = true := by decide +kernel

/-- 200 ms and 199 ms of quiet in YIELDED, and a role other than YIELDED. -/
theorem witness_LineResumeNeedsAQuietLine :
    (let s := { inRole .yielded State.reset with clock := 200 }
     carriesOut s = true ∧ s.engine.role = .yielded ∧ s.engine.isQuiet = true ∧
       s.engine.params.quietInterval ≤ s.engine.quietMs s.clock) ∧
      (let s := { inRole .yielded State.reset with clock := 199 }
       carriesOut s = true ∧ ¬ s.engine.params.quietInterval ≤ s.engine.quietMs s.clock) ∧
      carriesOut State.reset = true ∧ State.reset.engine.role ≠ .yielded := by decide +kernel

/-- Every part at the ends of its range, at a VACANT, a PARKED and an ONLINE entry, and each a step beyond. -/
theorem witness_EnrolStartsTheStationAfresh :
    (carriesOut State.reset && carriesOut (with7 { online with state := .parked }) && carriesOut (with7 online)) = true ∧
      (([7#8, 7#8, 0#8, 10#8, 16#8, 2#8, 16#8] ++ List.replicate 16 1#8 ++ [1#8, 15#8] ++
          (1#8 :: halfBytes 0x1A20#16 ++ [3#8])).length = 29 ∧ (List.replicate 16 1#8).length = (16#8).toNat) ∧
      ((1 ≤ (1#8).toNat ∧ (31#8).toNat ≤ 31 ∧ (31#8).toNat = (30 : Addr).val + 1 ∧ (7#8).toNat ≤ 7) ∧
        (10 ≤ 0 * 256 + 10 ∧ 0xEA * 256 + 0x60 ≤ 60000) ∧ ((16#8).toNat ≤ 16 ∧ (2#8).toNat ≤ 2) ∧
        (1 ≤ (1#8).toNat ∧ (15#8).toNat ≤ 15)) ∧
      [ReportMode.changes, .every, .silent][(2#8).toNat]? = some .silent ∧
      (¬ 1 ≤ (0#8).toNat ∧ ¬ (32#8).toNat ≤ 31 ∧ ¬ (8#8).toNat ≤ 7 ∧ ¬ 0xEA * 256 + 0x61 ≤ 60000 ∧
        ¬ (17#8).toNat ≤ 16 ∧ ¬ (3#8).toNat ≤ 2 ∧ ¬ (16#8).toNat ≤ 15) ∧
      (State.reset.station 6).state = .vacant ∧ ((with7 { online with state := .parked }).station 6).state = .parked ∧
      ((with7 online).station 6).state = .online := by decide +kernel

/-- A mask with a new length of 16; a mask of a length that does not apply; addresses 0 and 32; a level raised from 0,
with the poll committed and without; miss limits 2 and 3 at a SUSPECT station of miss count 2; a VACANT entry. -/
theorem witness_ModifyStoresItsParameters :
    [with7 online, with7 { online with level := 0 }, with7 suspect, State.reset,
        calling .master (poll7 .gap) { online with level := 0 }].all carriesOut = true ∧
      (let raw : RawModify := ⟨7#8, none, none, some 16#8, List.replicate 16 1#8, none, none⟩
       layoutModify ([7#8, 0#8, 0#8, 1#8, 16#8, 16#8] ++ List.replicate 16 1#8 ++ [0#8, 0#8]) = some raw ∧
         raw.address.toNat = (6 : Addr).val + 1 ∧ raw.watchMask.length = (16#8).toNat ∧
         (rangeModify (fun a => ((with7 online).station a).imageLength) raw).isSome = true) ∧
      (let raw : RawModify := ⟨7#8, none, none, none, [1#8], none, none⟩
       layoutModify [7#8, 0#8, 0#8, 0#8, 1#8, 1#8, 0#8, 0#8] = some raw ∧
         rangeModify (fun a => ((with7 online).station a).imageLength) raw = none) ∧
      (∀ a : Addr, (0#8).toNat ≠ a.val + 1 ∧ (32#8).toNat ≠ a.val + 1) ∧
      (let raw : RawModify := ⟨7#8, some 1#8, none, none, [], none, some 2#8⟩
       rangeModify (fun _ => 2) raw = some ⟨6, some 1, none, none, none, none, some 2⟩) ∧
      (let s := with7 { online with level := 0 }
       (s.station 6).state = .online ∧ (s.station 6).level = 0 ∧ s.engine.exchange = none) ∧
      (calling .master (poll7 .gap) { online with level := 0 }).engine.exchange = some (poll7 .gap) ∧
      (let s := with7 suspect
       (s.station 6).state = .suspect ∧ 2 ≤ (s.station 6).missCount ∧ ¬ 3 ≤ (s.station 6).missCount) ∧
      (({ with7 suspect with requests := [request10 .waiting] } : State).requests.map fun r => r.tag).Nodup ∧
      ((with7 online).station 6).state ≠ .vacant ∧ (State.reset.station 6).state = .vacant := by decide +kernel

/-- In MASTER and in OFF: a level raised from 0 alone and with a period, a level of 0 alone, with a period and while the
poll is committed; a period of 100 while the poll is 100 and 101 ms ahead, reached and saturated. -/
theorem witness_ModifyMovesTheDueTime :
    [with7 online, inRole .master (with7 online), with7 { online with level := 0 },
        inRole .master (with7 { online with level := 0 }), with7 suspect, calling .master (poll7 .gap) online,
        calling .master (poll7 .gap) { online with level := 0 },
        with7 { online with nextDue := some ⟨100, false, false⟩ },
        with7 { online with nextDue := some ⟨101, false, false⟩ },
        with7 { online with nextDue := some ⟨0, true, false⟩ },
        with7 { online with nextDue := some ⟨0, true, true⟩ }].all carriesOut = true ∧
      layoutModify [7#8, 1#8, 1#8, 0#8, 0#8, 0#8, 0#8, 0#8] = some ⟨7#8, some 1#8, none, none, [], none, none⟩ ∧
      rangeModify (fun _ => 2) ⟨7#8, some 1#8, none, none, [], none, none⟩ =
        some ⟨6, some 1, none, none, none, none, none⟩ ∧
      layoutModify [7#8, 1#8, 1#8, 1#8, 0#8, 100#8, 0#8, 0#8, 0#8, 0#8] =
        some ⟨7#8, some 1#8, some 100#16, none, [], none, none⟩ ∧
      rangeModify (fun _ => 2) ⟨7#8, some 1#8, some 100#16, none, [], none, none⟩ =
        some ⟨6, some 1, some 100, none, none, none, none⟩ ∧
      rangeModify (fun _ => 2) ⟨7#8, some 0#8, some 100#16, none, [], none, none⟩ =
        some ⟨6, some 0, some 100, none, none, none, none⟩ ∧
      rangeModify (fun _ => 2) ⟨7#8, none, some 100#16, none, [], none, none⟩ =
        some ⟨6, none, some 100, none, none, none, none⟩ ∧
      (100 < ((101 : Clock) - 0).toNat ∧ ¬ 100 < ((100 : Clock) - 0).toNat ∧
        2147483648 ≤ ((0 : Clock) - 101).toNat ∧ ((0 : Clock) - 0).toNat < 2147483648) := by decide +kernel

theorem witness_ParkAndReleaseTakeTheStationOff :
    ((7#8).toNat = (6 : Addr).val + 1 ∧ (31#8).toNat = (30 : Addr).val + 1) ∧
      (let s := { with7 online with requests := [request10 .waiting] }
       carriesOut s = true ∧ (s.requests.map fun r => r.tag).Nodup ∧ (s.station 6).state ≠ .vacant ∧
         (s.station 6).state ≠ .parked) ∧
      (carriesOut State.reset = true ∧ (State.reset.station 6).state = .vacant) ∧
      (let s := with7 { online with state := .parked }
       carriesOut s = true ∧ (s.station 6).state = .parked) := by decide +kernel

/-- Addresses 1, 31, 0 and 32. -/
theorem witness_StationQueryShowsTheEntry :
    carriesOut State.reset = true ∧ Station.reset.fits ∧
      (1#8).toNat = (0 : Addr).val + 1 ∧ (31#8).toNat = (30 : Addr).val + 1 ∧ (0#8).toNat = 0 ∧ 31 < (32#8).toNat :=
  ⟨by decide +kernel, by simp [Station.fits, Station.reset], by decide⟩

theorem witness_RosterAndQueueQueryListTheirEntries : carriesOut (with7 online) = true := by decide +kernel

/-- 16 live requests of distinct tags. -/
def sixteen : List Request :=
  (List.range 16).map fun i => { request10 .waiting with tag := BitVec.ofNat 16 (0x100 + i) }

/-- Urgency 8, a tag in use, a full live set and a station that is not ONLINE. -/
theorem witness_RequestsAreRefusedInOrder :
    (carriesOut (with7 online) && carriesOut State.reset) = true ∧
      layoutPut [0#8, 0x10#8, 7#8, 8#8, 0#8, 0#8, 0#8, 1#8, 1#8] = some ⟨0x10#16, 7#8, 8#8, 0#8, 0#16, [1#8]⟩ ∧
      rangeStationRequest .put ⟨0x10#16, 7#8, 8#8, 0#8, 0#16, [1#8]⟩ = none ∧
      layoutGet [0#8, 0x10#8, 7#8, 7#8, 7#8, 0#8, 0#8, 1#8] = some ⟨0x10#16, 7#8, 7#8, 7#8, 0#16, [1#8]⟩ ∧
      rangeStationRequest .get ⟨0x10#16, 7#8, 7#8, 7#8, 0#16, [1#8]⟩ =
        some ⟨0x10#16, .get, some 6, 7, 7, none, [1#8]⟩ ∧
      layoutBroadcast [0#8, 0x10#8, 1#8, 0#8, 0#8, 1#8, 1#8] = some ⟨0x10#16, 0#8, 1#8, 0#8, 0#16, [1#8]⟩ ∧
      rangeBroadcast ⟨0x10#16, 0#8, 1#8, 0#8, 0#16, [1#8]⟩ =
        some ⟨0x10#16, .broadcast, none, 1, 0, none, [1#8]⟩ ∧
      (∃ r ∈ [request10 .waiting], r.tag = 0x10#16) ∧
      (∀ r ∈ sixteen, r.tag ≠ 0x10#16) ∧ 16 ≤ sixteen.length ∧ (sixteen.take 15).length < 16 ∧
      (State.reset.station 6).state ≠ .online ∧ (State.reset.station 6).state ≠ .suspect := by decide +kernel

/-- 15 live requests, a station that is ONLINE; a payload of the length its byte announces. -/
theorem witness_RequestsAreAccepted :
    carriesOut { with7 online with requests := sixteen.take 15 } = true ∧ [1#8].length = (1#8).toNat ∧
      layoutPut [0#8, 0x10#8, 7#8, 7#8, 7#8, 0#8, 0#8, 1#8, 1#8] = some ⟨0x10#16, 7#8, 7#8, 7#8, 0#16, [1#8]⟩ ∧
      rangeStationRequest .put ⟨0x10#16, 7#8, 7#8, 7#8, 0#16, [1#8]⟩ =
        some ⟨0x10#16, .put, some 6, 7, 7, none, [1#8]⟩ ∧
      layoutGet [0#8, 0x10#8, 7#8, 1#8, 0#8, 0#8, 1#8, 5#8] = some ⟨0x10#16, 7#8, 1#8, 0#8, 1#16, [5#8]⟩ ∧
      rangeStationRequest .get ⟨0x10#16, 7#8, 1#8, 0#8, 1#16, [5#8]⟩ =
        some ⟨0x10#16, .get, some 6, 1, 0, some 1, [5#8]⟩ ∧
      layoutBroadcast [0#8, 0x10#8, 1#8, 0#8, 0#8, 1#8, 1#8] = some ⟨0x10#16, 0#8, 1#8, 0#8, 0#16, [1#8]⟩ ∧
      rangeBroadcast ⟨0x10#16, 0#8, 1#8, 0#8, 0#16, [1#8]⟩ =
        some ⟨0x10#16, .broadcast, none, 1, 0, none, [1#8]⟩ ∧
      (∀ r ∈ sixteen.take 15, r.tag ≠ 0x10#16) ∧ (sixteen.take 15).length < 16 ∧
      ((with7 online).station 6).state = .online := by decide +kernel

theorem witness_CancelActsByTheRequestsState :
    [State.reset, { with7 online with requests := [request10 .waiting] },
        { with7 online with requests := [request10 .reported] }, putting .master .gap .ready].all carriesOut = true ∧
      (∀ r ∈ State.reset.requests, r.tag ≠ 0x0010#16) ∧ (0#8 ++ 0x10#8 : Half) = 0x0010#16 ∧
      ({ with7 online with requests := [request10 .waiting] } : State).findRequest 0x0010#16 =
        some (request10 .waiting) ∧
      ({ with7 online with requests := [request10 .reported] } : State).findRequest 0x0010#16 =
        some (request10 .reported) ∧
      (putting .master .gap .ready).findRequest 0x0010#16 = some (request10 .onLine) := by decide +kernel

theorem witness_CachedCommandsAreNotCarriedOut :
    let s := ((State.reset.after (.lineStart 5 [])).after .responseFrameBegin).elapse 20000 |>.after .responseDelivered
    s.commandUnitFree ∧ s.host.cache = some ⟨5#8, [0x21#8, 0#8, 1#8]⟩ := by
  unfold State.commandUnitFree; decide +kernel

/-- HRX low; the ready slot empty and full behind a response. -/
theorem witness_CommandsWaitOrOverrun :
    (let s := withHrxLow 0 false State.reset; s.held = false ∧ s.host.hrx ≠ .high) ∧
      (let s := answered State.reset
       s.held = false ∧ s.host.hrx = .high ∧ s.unit.responseSlot = some ⟨5#8, [0x10#8, 0x00#8]⟩ ∧
         s.host.readySlot = none) ∧
      (let s := (answered State.reset).after (.roster 6 [])
       s.host.hrx = .high ∧ s.unit.responseSlot = some ⟨5#8, [0x10#8, 0x00#8]⟩ ∧
         s.host.readySlot = some ⟨6#8, [0x35#8]⟩) := by decide +kernel

/-- The codes beside those of the table; each layout a byte short or a byte long. -/
theorem witness_BadBodiesAreRefused :
    carriesOut State.reset = true ∧
      [0x0F#8, 0x15#8, 0x1F#8, 0x24#8, 0x2F#8, 0x36#8, 0x3F#8, 0x45#8].all (fun c => !commandCodes.contains c) = true ∧
      [0#8] ≠ ([] : List Byte) ∧ ([] : List Byte).length ≠ 1 ∧ [0#8, 0#8].length ≠ 1 ∧ [0#8, 0#8].length ≠ 3 ∧
      (List.replicate 6 0#8).length ≠ 7 ∧ (List.replicate 9 0#8).length ≠ 8 ∧ [0#8].length ≠ 2 ∧
      (let p := [0#8, 0#8, 1#8]; p.length ≠ 3 + (p.getD 2 0#8).toNat) ∧
      (let p := [0#8, 0#8, 7#8, 1#8, 0#8, 0#8, 0#8, 1#8]; p.length ≠ 8 + (p.getD 7 0#8).toNat) ∧
      (let p := [0#8, 0#8, 1#8, 0#8, 0#8, 1#8, 1#8, 1#8]; p.length ≠ 6 + (p.getD 5 0#8).toNat) ∧
      (let p := [1#8, 0#8, 0#8, 10#8, 1#8, 0#8, 1#8, 0#8, 0#8]; p.length < 9 + (p.getD 6 0#8).toNat) ∧
      (let p := [1#8, 2#8, 0#8, 0#8, 0#8, 0#8, 0#8]; 2 ≤ (p.getD 1 0#8).toNat) := by decide +kernel

/-- HUNTING; ASSEMBLING with no byte, with its length byte, and with all but the last byte; lengths 1, 2, 200 and 201;
bytes that end in 0, 7 and 8 data bits at 0; pauses of 20 and 21 ms; a right and a wrong CRC. -/
theorem witness_ReceiverCountsEachFault :
    (State.reset.held = false ∧ State.reset.host.hrx = .high ∧ State.reset.host.receiver = .hunting) ∧
      (State.reset.after .leadByte).host.receiver = .assembling [] 0 ∧
      (2 ≤ (2#8).toNat ∧ (200#8).toNat ≤ 200 ∧ (1#8).toNat < 2 ∧ 200 < (201#8).toNat) ∧
      [2#8].length ≠ (2#8).toNat + 2 ∧
      ((0x80#8).toNat < 2 ^ (8 - 0) ∧ 2 ^ (7 - 0) ≤ (0x80#8).toNat) ∧
      ((0x01#8).toNat < 2 ^ (8 - 7) ∧ 2 ^ (7 - 7) ≤ (0x01#8).toNat) ∧ (0x00#8).toNat < 2 ^ (8 - 8) ∧
      (let s := (State.reset.after .leadByte).elapse 336000
       s.held = false ∧ s.host.hrx = .high ∧ s.host.receiver = .assembling [] 0 ∧ 20 < (s.clock - 0).toNat) ∧
      (let s := (State.reset.after .leadByte).elapse 335999
       s.host.receiver = .assembling [] 0 ∧ (s.clock - 0).toNat ≤ 20) ∧
      (let s := received 0x7F#8 1#8 [] State.reset
       s.held = false ∧ s.host.hrx = .high ∧
         s.host.completedBy? (lastByte 0x7F#8 1#8 []) = some ⟨0x7F#8, 1#8, [], true⟩ ∧
         s.host.completedBy? (lastByte 0x7F#8 1#8 [] + 1#8) = some ⟨0x7F#8, 1#8, [], false⟩) := by decide +kernel

/-- A body of 198 bytes and an empty one. -/
theorem witness_FrameSentIsFrameReceived :
    State.reset.held = false ∧ State.reset.host.hrx = .high ∧ State.reset.host.receiver = .hunting ∧
      (List.replicate 198 0#8).length ≤ 198 ∧
      (∀ body : List Byte, ∃ (middle : List Byte) (last : Byte),
        hostFrame 0x01#8 5#8 body = 0xA7#8 :: middle ++ [last] ∧ last + 1#8 ≠ last) := by
  refine ⟨by decide +kernel, by decide +kernel, by decide +kernel, Nat.le_of_eq List.length_replicate, fun body => ?_⟩
  have differs : ∀ last : Byte, last + 1#8 ≠ last := by decide
  refine ⟨(natByte (body.length + 2) :: 0x01#8 :: 5#8 :: body) ++
    [(crc16 (natByte (body.length + 2) :: 0x01#8 :: 5#8 :: body)).extractLsb' 8 8],
    (crc16 (natByte (body.length + 2) :: 0x01#8 :: 5#8 :: body)).extractLsb' 0 8, ?_, differs _⟩
  simp [hostFrame, halfBytes, Config.leadByte]

/-- A body with a command code, with another code, and with none; FLOWING, and STALLED with and without SENT entries. -/
theorem witness_CommandFrameGivesNoticeAndRuns :
    (let s := received 0x01#8 5#8 [0x10#8] State.reset
     s.held = false ∧
       s.host.completedBy? (lastByte 0x01#8 5#8 [0x10#8]) = some ⟨0x01#8, 5#8, [0x10#8], true⟩ ∧
       [0x10#8] = CommandName.identify.code :: []) ∧
      (let s := received 0x01#8 5#8 [0x45#8] State.reset
       s.host.completedBy? (lastByte 0x01#8 5#8 [0x45#8]) = some ⟨0x01#8, 5#8, [0x45#8], true⟩ ∧
         commandCodes.contains 0x45#8 = false) ∧
      (let s := received 0x01#8 5#8 [] State.reset
       s.host.completedBy? (lastByte 0x01#8 5#8 []) = some ⟨0x01#8, 5#8, [], true⟩) ∧
      State.reset.reports.link = .flowing ∧ stalled.reports.link = .stalled ∧
      stalled.reports.queue = [⟨.ready .power 0x02#8, .sent 0#8⟩] ∧
      (∀ e ∈ State.reset.reports.queue, e.status = .unsent) := by decide +kernel

/-- The Report Unit of `threeReports` stands as the statements ask. -/
theorem witness_reportsFit : threeReports.reports.fits ∧ readySent.reports.fits := by
  unfold ReportUnit.fits; decide +kernel

/-- An ACK of 20, of 21 and of 22. -/
theorem witness_AckRemovesEveryReportUpToIt :
    threeReports.reports.fits ∧
      (let s := received 0x02#8 20#8 [] threeReports
       s.held = false ∧ s.reports = threeReports.reports ∧
         s.host.completedBy? (lastByte 0x02#8 20#8 []) = some ⟨0x02#8, 20#8, [], true⟩ ∧
         s.reports.queue.head?.map ReportEntry.status = some (.sent 20#8)) ∧
      (let s := received 0x02#8 21#8 [] threeReports
       s.host.completedBy? (lastByte 0x02#8 21#8 []) = some ⟨0x02#8, 21#8, [], true⟩ ∧
         (s.reports.queue.drop 1).head?.map ReportEntry.status = some (.sent 21#8)) ∧
      (let s := received 0x02#8 22#8 [] threeReports
       s.host.completedBy? (lastByte 0x02#8 22#8 []) = some ⟨0x02#8, 22#8, [], true⟩ ∧
         ∀ e ∈ s.reports.queue, e.status ≠ .sent 22#8) :=
  ⟨witness_reportsFit.1, by decide +kernel⟩

/-- HRX high, low for a cycle less than 1 ms, for 1 ms, and declared already; with no frame, a report, and a response on
HTX, a command waiting behind it and none. -/
theorem witness_BreakReturnsTheLinkToItsFirstRate :
    (State.reset.held = false ∧ State.reset.host.hrx = .high) ∧
      ((withHrxLow 16000 true State.reset).host.hrx = .low 16000 true ∧
        (withHrxLow 15999 false State.reset).host.hrx = .low 15999 false) ∧
      (let s := withHrxLow 16000 false State.reset
       s.held = false ∧ s.host.hrx = .low 16000 false ∧ s.host.tx = none) ∧
      (let s := withHrxLow 16000 false (State.reset.after .reportFrameBegin)
       s.host.hrx = .low 16000 false ∧ s.host.tx.map TxFrame.source = some .report) ∧
      (let s := withHrxLow 16000 false (answered State.reset)
       s.held = false ∧ s.host.hrx = .low 16000 false ∧ s.host.tx.map TxFrame.source = some .response ∧
         s.unit.pendingRestart = false ∧ s.host.readySlot = none) ∧
      (withHrxLow 16000 false ((answered State.reset).after (.roster 6 []))).host.readySlot =
        some ⟨6#8, [0x35#8]⟩ := by decide +kernel

/-- With the ready slot empty and full, and exactly the frame's time run. -/
theorem witness_DeliveryFreesTheCommandUnit :
    (let s := answered State.reset
     s.held = false ∧ s.unit.pendingRestart = false ∧ s.host.readySlot = none ∧
       s.host.tx.map TxFrame.source = some .response ∧
       s.host.tx.map (fun f => decide (160000000 * f.bytes.length ≤ f.elapsed * f.rate.bps)) = some true) ∧
      ((answered State.reset).after (.roster 6 [])).host.readySlot = some ⟨6#8, [0x35#8]⟩ ∧
      charTimesRun 1 160000000 1 = true ∧ charTimesRun 12500 115200 9 = true ∧ charTimesRun 12499 115200 9 = false := by
  decide +kernel

/-- Four SENT entries and one UNSENT. -/
def fullWindow : State :=
  { State.reset with
    reports :=
      { State.reset.reports with
        queue :=
          [⟨.image 0 1 [0#8] 0, .sent 0#8⟩, ⟨.image 1 1 [0#8] 0, .sent 1#8⟩, ⟨.image 2 1 [0#8] 0, .sent 2#8⟩,
            ⟨.image 3 1 [0#8] 0, .sent 3#8⟩, ⟨.image 4 1 [0#8] 0, .unsent⟩]
        nextSeq := 4#8
        ackTimer := some ⟨0, 100⟩ } }

/-- A response waiting; a resend point; two, three and four SENT entries; STALLED; a report whose time has run. -/
theorem witness_TransmitterBeginsFrames :
    (let s := { State.reset with unit := ⟨some ⟨5#8, [0x22#8, 0#8, 0#8]⟩, false⟩ }
     s.held = false ∧ s.host.tx = none ∧ s.unit.responseSlot = some ⟨5#8, [0x22#8, 0#8, 0#8]⟩) ∧
      (let s := threeReports
       s.held = false ∧ s.host.tx = none ∧ s.unit.responseSlot = none ∧ s.reports.link = .flowing ∧
         s.reports.resendPoint = some 20#8 ∧ s.reports.queue.head?.map ReportEntry.status = some (.sent 20#8)) ∧
      (let s := { threeReports with reports := { threeReports.reports with resendPoint := none } }
       s.host.tx = none ∧ s.reports.resendPoint = none ∧
         (∀ x ∈ s.reports.queue.take 2, x.status ≠ .unsent) ∧
         (s.reports.queue.drop 2).map ReportEntry.status = [.unsent] ∧ (s.reports.queue.take 2).length < 4) ∧
      (fullWindow.reports.queue.take 3).length < 4 ∧
      (fullWindow.held = false ∧ fullWindow.reports.link = .flowing ∧ fullWindow.reports.resendPoint = none ∧
        4 ≤ fullWindow.reports.sentEntries.length) ∧
      (stalled.held = false ∧ stalled.reports.link = .stalled) ∧
      (let s := (State.reset.after .reportFrameBegin).elapse 12500
       s.held = false ∧ s.host.tx.map (fun f => (f.source, f.ended)) = some (.report, true)) := by decide +kernel

/-- Exactly the timeout run, at round counts 0, 6 and 7. -/
theorem witness_AckTimerRetransmitsThenStalls :
    readySent.reports.fits ∧
      ({ readySent.reports with roundCount := 6 } : ReportUnit).fits ∧
      ({ readySent.reports with roundCount := 7 } : ReportUnit).fits ∧
      (let s := { readySent with clock := 100 }
       s.held = false ∧ s.reports.ackTimer = some ⟨0, 100⟩ ∧ 100 ≤ (s.clock - 0).toNat) := by
  refine ⟨witness_reportsFit.2, ?_, ?_, ?_⟩
  · unfold ReportUnit.fits; decide +kernel
  · unfold ReportUnit.fits; decide +kernel
  · decide +kernel

/-- A deadline that has just passed in two states of its request; a due time just arrived; a lateness just full, in
an entry and in an anchor. -/
theorem witness_DeadlinesExpireAndDueTimesAreReached :
    (let s := { with7 online with requests := [request10 .waiting], clock := 500 }
     s.held = false ∧ s.findRequest (request10 .waiting).tag = some (request10 .waiting) ∧
       (request10 .waiting).deadline = some 500 ∧ 500 ≤ (s.clock - (request10 .waiting).acceptedAt).toNat) ∧
      (let s := { putting .master .gap .ready with clock := 500 }
       s.findRequest (request10 .onLine).tag = some (request10 .onLine) ∧ (request10 .onLine).state ≠ .waiting) ∧
      (let s := with7 { online with nextDue := some ⟨0, false, false⟩ }
       (s.station 6).nextDue = some ⟨0, false, false⟩ ∧ (s.clock - 0).toNat < 2147483648) ∧
      (let s := { with7 { online with nextDue := some ⟨0, true, false⟩ } with clock := 2147483647 }
       (s.station 6).nextDue = some ⟨0, true, false⟩ ∧ 2147483647 ≤ (s.clock - 0).toNat) ∧
      (let s := { polling .receiving .ready 0 with clock := 2147483647 }
       s.engine.exchange.map (fun x => x.record.origin) = some (.poll ⟨0, true, false⟩) ∧
         2147483647 ≤ (s.clock - 0).toNat) := by decide +kernel

/-- 8,334 and 8,333 cycles of quiet in GAP; the first and the last character of a call just ended, and not yet. -/
theorem witness_CallStartsAfterTheGap :
    (let s := polling .gap .ready 8334
     s.held = false ∧ s.engine.exchange = some (poll7 .gap) ∧ s.engine.isQuiet = true ∧
       160000000 * s.engine.params.gap ≤ s.engine.quiet * s.engine.params.rate.bps ∧ s.engine.framer = .ready) ∧
      (let s := polling .gap .ready 8333
       s.engine.exchange = some (poll7 .gap) ∧
         ¬ 160000000 * s.engine.params.gap ≤ s.engine.quiet * s.engine.params.rate.bps) ∧
      (let s := polling (.sending 2778 0 0) .ready 0
       s.engine.exchange = some (poll7 (.sending 2778 0 0)) ∧ 0 < (poll7 .gap).record.call.length ∧
         160000000 * 1 ≤ 2778 * s.engine.params.rate.bps ∧ 2777 * s.engine.params.rate.bps < 160000000 * 1) ∧
      (let s := polling (.sending 13889 4 3) .ready 0
       4 < (poll7 .gap).record.call.length ∧ 160000000 * 5 ≤ 13889 * s.engine.params.rate.bps) := by decide +kernel

/-- The first and the last echo of a call of five characters, at the latest 2 character times after the end of theirs, and
the first while its character is still on LTX. -/
theorem witness_GoodEchoesEndTheCall :
    (let s := polling (.sending 2778 1 0) .ready 0
     s.held = false ∧ s.engine.exchange = some (poll7 (.sending 2778 1 0)) ∧ s.engine.lrxHeld = false ∧
       8333 * s.engine.params.rate.bps ≤ 160000000 * (0 + 3)) ∧
      (polling (.sending 2700 0 0) .ready 0).engine.exchange = some (poll7 (.sending 2700 0 0)) ∧
      (poll7 .gap).record.call[0]? = some 0x10#8 ∧ 0 + 1 < (poll7 .gap).record.call.length ∧
      ((poll7 .gap).record.call[4]?).isSome = true ∧ 4 + 1 = (poll7 .gap).record.call.length ∧
      (let s := polling (.sending 19444 5 4) .ready 0
       s.engine.exchange = some (poll7 (.sending 19444 5 4)) ∧
         19444 * s.engine.params.rate.bps ≤ 160000000 * (4 + 3)) := by decide +kernel

/-- A missing echo, a false one, a late one and one of no character sent; a foreign call in GAP, AWAIT and SETTLE; MASTER
and STOPPING; anchors that go back and that are discarded; a request that waits again, has expired, is cancelled and is
lost with its station; the fallback broadcast. -/
theorem witness_ContentionEndsTheExchange :
    (let s := polling (.sending 8334 1 0) .ready 0
     s.held = false ∧ s.engine.exchange = some (poll7 (.sending 8334 1 0)) ∧ s.engine.lde = true ∧
       s.engine.lrxHeld = false ∧ 160000000 * (0 + 3) ≤ 8334 * s.engine.params.rate.bps ∧
       160000000 * (0 + 3) < 8334 * s.engine.params.rate.bps ∧ (poll7 .gap).record.call[0]? ≠ some 0x11#8 ∧
       s.engine.role = .master) ∧
      (polling (.sending 2700 0 1) .ready 0).engine.exchange = some (poll7 (.sending 2700 0 1)) ∧
      (let s := polling .gap .ready 0
       s.engine.lde = false ∧ s.engine.lrxHeld = false ∧ s.engine.framer = .ready ∧ (127#8).toNat < 128) ∧
      (let s := putting .stopping (.await 0 false) .ready
       s.held = false ∧ s.engine.role = .stopping ∧ s.engine.lde = false ∧ s.engine.lrxHeld = false ∧
         s.engine.framer = .ready ∧ s.engine.exchange = some (put7 (.await 0 false))) ∧
      (let s := falling .master .settle 0
       s.held = false ∧ s.engine.role = .master ∧ s.engine.lde = false ∧ s.engine.framer = .ready ∧
         s.engine.exchange = some (fallbackX .settle) ∧ (fallbackX .settle).record.origin = .fallback) ∧
      (falling .stopping .settle 0).engine.role = .stopping ∧
      (∀ p ∈ [(poll7 .gap, online), (recovery7 .gap, suspect), (probe7 .gap, { online with state := .probing }),
          (probe7 .gap, lost), (orphan (poll7 .gap), Station.reset), (poll7 .gap, suspect),
          (poll7 .gap, { online with level := 0 }), (orphan (recovery7 .gap), Station.reset), (recovery7 .gap, lost),
          (orphan (probe7 .gap), Station.reset), (probe7 .gap, online)],
        let s := calling .master p.1 p.2
        s.held = false ∧ s.engine.lde = false ∧ s.engine.lrxHeld = false ∧ s.engine.framer = .ready ∧
          s.engine.exchange = some p.1 ∧ p.1.record.station = some 6 ∧ s.station 6 = p.2) ∧
      ∀ p ∈ [(put7 .gap, online, 20), (put7 .gap, online, 500), (orphan (put7 .gap), Station.reset, 20),
          (put7 .gap, lost, 20)],
        let s := { calling .master p.1 p.2.1 with clock := p.2.2 }
        s.held = false ∧ s.engine.lde = false ∧ s.engine.lrxHeld = false ∧ s.engine.framer = .ready ∧
          s.engine.exchange = some p.1 ∧ p.1.record.origin = .request (request10 .onLine).tag ∧
          s.findRequest (request10 .onLine).tag = some (request10 .onLine) ∧
          p.1.record.station = (request10 .onLine).station ∧ (s.requests.map fun q => q.tag).Nodup ∧
          ∀ q ∈ s.requests, q.tag = (request10 .onLine).tag := by decide +kernel

/-- 20 ms and 19 ms after the release of LDE, with a start bit and without; a poll, a recovery poll, a probe and a PUT,
orphaned and not, at stations that stay below the miss limit; a request that waits again, has failed, and has expired; what
follows in MASTER, with fallback pending, with a payload and without, and in STOPPING. -/
theorem witness_ReplyTimeoutIsAMiss :
    (let s := polling (.await 0 false) .ready 0
     s.held = false ∧ s.engine.exchange = some (poll7 (.await 0 false)) ∧
       s.engine.params.replyTimeout ≤ (s.clock - 0).toNat ∧ (s.clock - 1).toNat < s.engine.params.replyTimeout ∧
       s.engine.role = .master ∧ s.fallback.pending = false) ∧
      (polling (.await 0 true) .ready 0).engine.exchange = some (poll7 (.await 0 true)) ∧
      (∀ payload ∈ [some [1#8], none],
        let s := { polling (.await 0 false) .ready 0 with fallback := ⟨100, payload, none, true, .awaitingExchange⟩ }
        s.held = false ∧ s.engine.exchange = some (poll7 (.await 0 false)) ∧ s.engine.role = .master ∧
          s.fallback.pending = true ∧ s.fallback.payload = payload) ∧
      (calling .stopping (poll7 (.await 0 false)) online).engine.role = .stopping ∧
      (∀ x ∈ [poll7 (.await 0 false), recovery7 (.await 0 false), probe7 (.await 0 false)],
        (calling .master (orphan x) Station.reset).engine.exchange = some (orphan x)) ∧
      (∀ p ∈ [(poll7 (.await 0 false), online, 1), (recovery7 (.await 0 false), { suspect with missCount := 1 }, 2),
          (put7 (.await 0 false), online, 1), (put7 (.await 0 false), { suspect with missCount := 1 }, 2)],
        let s := calling .master p.1 p.2.1
        s.engine.exchange = some p.1 ∧ p.1.record.station = some 6 ∧ p.1.record.orphaned = false ∧
          ((s.station 6).state = .online ∧ p.2.2 = 1 ∨
            (s.station 6).state = .suspect ∧ p.2.2 = (s.station 6).missCount + 1) ∧
          p.2.2 < (s.station 6).missLimit) ∧
      (∀ e ∈ [{ online with state := .probing }, lost],
        let s := calling .master (probe7 (.await 0 false)) e
        s.engine.exchange = some (probe7 (.await 0 false)) ∧
          ((s.station 6).state = .probing ∨ (s.station 6).state = .lost)) ∧
      (let s := calling .master (put7 (.await 0 false)) online
       s.findRequest (request10 .onLine).tag = some (request10 .onLine) ∧
         (put7 .gap).record.origin = .request (request10 .onLine).tag ∧
         ¬ (request10 .onLine).allowance < (request10 .onLine).attempts + 1 ∧
         (request10 .onLine).deadlinePassed s.clock = false ∧ (request10 .onLine).deadlinePassed 500 = true) ∧
      (let r := { request10 .onLine with attempts := 2 }
       r.allowance < r.attempts + 1) := by decide +kernel

/-- Each kind and each miss; miss counts below the limit; a miss limit of 1, and miss count 2 of 3. -/
theorem witness_MissesLoseTheStation :
    ((poll7 .gap).record.kind = .poll ∧ (put7 .gap).record.kind = .put ∧
        (with7 online).station 6 = online ∧ 1 < online.missLimit ∧
        { suspect with missCount := 1 }.state = .suspect ∧ { suspect with missCount := 1 }.missCount + 1 < 3) ∧
      (let s := with7 { online with missLimit := 1 }
       (s.requests.map fun r => r.tag).Nodup ∧ (s.station 6).state = .online ∧ (s.station 6).missLimit ≤ 1) ∧
      (let s := { with7 suspect with requests := [request10 .waiting] }
       (s.requests.map fun r => r.tag).Nodup ∧ (s.station 6).state = .suspect ∧
         (s.station 6).missLimit ≤ (s.station 6).missCount + 1) := by decide +kernel

/-- The replies of each way the classification ends, to a poll and to a PUT. -/
theorem witness_RepliesAreClassifiedInOrder :
    (let s := polling .receiving (.collecting (dataTelegram [1#8, 2#8]).1) 0
     s.held = false ∧ s.engine.exchange = some (poll7 .receiving) ∧ s.engine.lde = false ∧
       s.engine.lrxHeld = false ∧
       s.engine.framer = .collecting (0x90#8 :: 7#8 :: 2#8 :: [1#8, 2#8] ++ [(dataTelegram [1#8, 2#8]).1.getLastD 0#8])) ∧
      crc16 (0x90#8 :: 7#8 :: 2#8 :: [1#8, 2#8]) =
        (dataTelegram [1#8, 2#8]).1.getLastD 0#8 ++ (dataTelegram [1#8, 2#8]).2 ∧
      crc16 (0x90#8 :: 7#8 :: 2#8 :: [1#8, 2#8]) ≠
        (dataTelegram [1#8, 2#8]).1.getLastD 0#8 ++ ((dataTelegram [1#8, 2#8]).2 + 1#8) ∧
      (7#8 = destByte (poll7 .gap).record.station ∧ 8#8 ≠ destByte (poll7 .gap).record.station) ∧
      ([none, some ReplyKind.data, some .ack, some .nak, some .ident][(0x90#8).toNat / 16 % 8]?.join = some .data ∧
        [none, some ReplyKind.data, some .ack, some .nak, some .ident][(0xA1#8).toNat / 16 % 8]?.join = some .ack ∧
        [none, some ReplyKind.data, some .ack, some .nak, some .ident][(0xB0#8).toNat / 16 % 8]?.join = some .nak ∧
        [none, some ReplyKind.data, some .ack, some .nak, some .ident][(0xF0#8).toNat / 16 % 8]?.join = none) ∧
      ((poll7 .gap).record.imageLength = some (2#8).toNat ∧ (poll7 .gap).record.imageLength ≠ some (3#8).toNat) ∧
      ((put7 .gap).record.toggleSent ≠ some ((0xA1#8).toNat % 2 == 1) ∧
        (put7 .gap).record.toggleSent = some ((0xA0#8).toNat % 2 == 1)) := by decide +kernel

/-- Attempts at and within the allowance, a deadline passed and not, an orphan; an answer at an ONLINE and a SUSPECT
station, and an answer and a miss at a LOST one with a request waiting for it. -/
theorem witness_OutcomeDecidesTheRequest :
    (let s := putting .master .receiving .ready
     s.findRequest (request10 .onLine).tag = some (request10 .onLine) ∧
       ¬ (request10 .onLine).allowance < (request10 .onLine).attempts + 1 ∧
       (request10 .onLine).deadlinePassed s.clock = false ∧ (request10 .onLine).deadlinePassed 500 = true ∧
       (put7 .receiving).record.origin = .request (request10 .onLine).tag ∧
       (put7 .receiving).record.kind = .put ∧ (s.station 6).state = .online) ∧
      (let r := { request10 .onLine with attempts := 2 }
       r.allowance < r.attempts + 1) ∧
      (orphan (put7 .receiving)).record.orphaned = true ∧ ((with7 suspect).station 6).state = .suspect ∧
      (let s := { with7 lost with requests := [request10 .waiting] }
       (s.requests.map fun q => q.tag).Nodup ∧ (s.station 6).state = .lost) ∧
      [ExOutcome.good, .refused 1#8, .sent, .noReply, .wrongSource, .stale, .garbled .crc].all
        (fun o => o != .collision .echo && o != .collision .foreignCall) = true := by decide +kernel

/-- A poll completed at its anchor, one period later, and just before; a lateness just full, and marked so; a recovery poll;
level 0; images that differ under the mask and do not; an image of another length than the entry's. -/
theorem witness_GoodPollUpdatesTheEntry :
    (let s := { with7 { online with reportedImage := some [1#8, 2#8] } with clock := 200 }
     (poll7 .receiving).record.kind = .poll ∧ (poll7 .receiving).record.origin = .poll ⟨0, true, false⟩ ∧
       (s.station 6).state = .online ∧ 0 < (s.station 6).period ∧
       (poll7 .receiving).record.imageLength = some (s.station 6).imageLength ∧
       (s.clock - 0).toNat < 2147483647 ∧
       ((s.clock - 0).toNat < 2 * (s.station 6).period ∧ (2 - 1) * (s.station 6).period ≤ (s.clock - 0).toNat) ∧
       (s.station 6).reportMode = .changes ∧ (s.station 6).watchMask[1]? = some 0xFF#8) ∧
      ((recovery7 .receiving).record.origin = .recoveryPoll ⟨0, true, false⟩ ∧ ((with7 suspect).station 6).state = .suspect) ∧
      (2147483647 ≤ ((2147483647 : Clock) - 0).toNat ∧ 2147483647 < 10737419 * 200 ∧
        (10737419 - 1) * 200 ≤ 2147483647) ∧
      ({ online with level := 0 }.level = 0 ∧ online.level ≠ 0) ∧
      (poll7 .receiving).record.imageLength ≠ some { online with imageLength := 4 }.imageLength ∧
      ((0 < 1 * 200 ∧ (1 - 1) * 200 ≤ 0) ∧ 199 < 1 * 200 ∧ ¬ 200 < 1 * 200) ∧
      (2#8 &&& 0xFF#8 : Byte) ≠ 3#8 &&& 0xFF#8 ∧ (2#8 &&& 0xFE#8 : Byte) = 3#8 &&& 0xFE#8 := by decide +kernel

/-- A probe of a PROBING station with an expected identity and of a LOST one without, that meet it, meet another, or
miss. -/
theorem witness_HailDecidesTheIdentity :
    (let s := with7 { online with state := .probing, identity := none }
     (s.station 6).state = .probing ∧ (s.station 6).expected = some ⟨0x1A#8 ++ 0x20#8, 0x03#8⟩ ∧
       (s.station 6).expected ≠ some ⟨0x1A#8 ++ 0x20#8, 0x04#8⟩) ∧
      (let s := with7 { online with state := .lost, missCount := 3, expected := none }
       (s.station 6).state = .lost ∧ (s.station 6).identity = some ⟨0x1A#8 ++ 0x20#8, 0x03#8⟩) ∧
      ExOutcome.noReply ≠ .good ∧ ExOutcome.refused 1#8 ≠ .good := by decide +kernel

/-- Headers 7Fh and 80h, and a framing error, in AWAIT, in GAP, and IDLE in MASTER and in OFF. -/
theorem witness_TelegramStartIsJudged :
    (let s := polling (.await 0 true) .ready 0
     s.held = false ∧ s.engine.lde = false ∧ s.engine.lrxHeld = false ∧ s.engine.framer = .ready ∧
       s.engine.exchange = some (poll7 (.await 0 true))) ∧
      (let s := polling .gap .ready 0
       s.engine.framer = .ready ∧ s.engine.exchange = some (poll7 .gap)) ∧
      (let s := busy .master (poll7 .gap) .ready 0 State.reset
       let idle := { s with engine := { s.engine with exchange := none } }
       idle.engine.exchange = none ∧ idle.engine.role = .master ∧ idle.engine.framer = .ready) ∧
      State.reset.engine.role ≠ .master ∧ ((127#8).toNat < 128 ∧ 128 ≤ (128#8).toNat) := by decide +kernel

/-- A length of 32; the last character before CRC low; SKIPPING after 3 character times; LRX held away from idle; a
start bit and the saturation on a quiet line. -/
theorem witness_FramerAndQuietFollowTheLine :
    (let s := polling .receiving (.collecting [0x90#8, 7#8]) 0
     s.held = false ∧ s.engine.lde = false ∧ s.engine.lrxHeld = false ∧
       s.engine.framer = .collecting [0x90#8, 7#8] ∧ (32#8).toNat ≤ 32) ∧
      [(0x55#8 : Byte)].length ≠ (1#8).toNat + 1 ∧
      (let s := polling .gap .skipping 8334
       s.engine.lde = false ∧ s.engine.framer = .skipping ∧ s.engine.charInProgress = false ∧
         160000000 * s.engine.params.gap ≤ s.engine.quiet * s.engine.params.rate.bps) ∧
      ((State.reset.after (.trailingCharacter ⟨0#8, .errorHeld⟩)).engine.lrxHeld = true) ∧
      (let s := { State.reset with clock := 65535 }
       s.engine.charInProgress = false ∧ s.engine.lrxHeld = false ∧
         65535 ≤ (s.clock - s.engine.quietSince).toNat) := by decide +kernel

/-- A framing error, a length of 33, and pauses of 2 character times and a little and of the gap. -/
theorem witness_TelegramFaultsGarbleTheReply :
    (let s := polling .receiving (.collecting [0x90#8, 7#8]) 5556
     s.held = false ∧ s.engine.lde = false ∧ s.engine.lrxHeld = false ∧
       s.engine.framer = .collecting [0x90#8, 7#8] ∧ s.engine.exchange = some (poll7 .receiving) ∧
       [0x90#8, 7#8].length = 2 ∧ 33 ≤ (33#8).toNat ∧ s.engine.charInProgress = false ∧
       320000000 < s.engine.quiet * s.engine.params.rate.bps ∧
       ¬ 320000000 < 5555 * s.engine.params.rate.bps) ∧
      (let s := polling .gap (.collecting [0x90#8]) 8334
       160000000 * s.engine.params.gap ≤ s.engine.quiet * s.engine.params.rate.bps ∧
         (poll7 .gap).phase ≠ .receiving) := by decide +kernel

/-- A BROADCAST, tag 0010h, on the line. -/
def castRequest : Request := ⟨0x0010#16, .broadcast, none, 4, 0, none, [1#8], 0, 0, none, .onLine⟩

/-- A broadcast request and the fallback broadcast, in MASTER and in STOPPING, the gap just run. -/
theorem witness_BroadcastsSettleAsSent :
    (let s := falling .master .settle 8334
     s.held = false ∧ s.engine.exchange = some (fallbackX .settle) ∧ (fallbackX .settle).record.station = none ∧
       s.engine.charInProgress = false ∧ s.engine.lrxHeld = false ∧
       160000000 * s.engine.params.gap ≤ s.engine.quiet * s.engine.params.rate.bps ∧ s.engine.role = .master) ∧
      (falling .stopping .settle 8334).engine.role = .stopping ∧
      (let x : Exchange := ⟨⟨.request castRequest.tag, none, .bcast, [1#8], none, none, false⟩, .settle⟩
       let s := { busy .master x .ready 8334 State.reset with requests := [castRequest] }
       s.held = false ∧ s.engine.exchange = some x ∧ s.findRequest castRequest.tag = some castRequest ∧
         s.engine.role = .master ∧ s.fallback.pending = false) := by decide +kernel

/-- 99 and 100 ms of silence, with an exchange in progress, with a payload, and without. -/
theorem witness_SilenceBringsTheFallback :
    (let s := { inRole .master State.reset with fallback := ⟨100, none, some 0, false, .none⟩, clock := 100 }
     s.held = false ∧ s.fallback.timer = some 0 ∧ s.engine.role = .master ∧
       s.fallback.limit ≤ (s.clock - 0).toNat ∧ (s.clock - 1).toNat < s.fallback.limit ∧
       s.engine.exchange = none ∧ s.fallback.payload = none) ∧
      (let s := { inRole .master State.reset with fallback := ⟨100, some [1#8], some 0, false, .none⟩, clock := 100 }
       s.fallback.payload = some [1#8] ∧ s.engine.exchange = none) ∧
      (let s := { polling .receiving .ready 0 with fallback := ⟨100, some [1#8], some 0, false, .none⟩, clock := 100 }
       s.engine.exchange ≠ none ∧ s.fallback.limit ≤ (s.clock - 0).toNat) := by decide +kernel

/-- A state of MASTER with two candidates, one in which none may be chosen, and one without candidates. -/
theorem witness_SelectionCommitsTheBestCandidate :
    (let s := { inRole .master (with7 { online with nextDue := some ⟨0, true, false⟩ }) with
        requests := [request10 .waiting] }
     s.engine.exchange = none ∧ s.engine.role = .master ∧ s.fallback.pending = false ∧ s.candidates.length = 2) ∧
      (polling .gap .ready 0).engine.exchange ≠ none ∧ State.reset.engine.role ≠ .master ∧
      (inRole .master State.reset).candidates = [] ∧
      (((0 : Clock) - 0).toNat = 0 ∧ 0 < ((1 : Clock) - 0).toNat ∧ ((2147483647 : Clock) - 0).toNat < 2147483648 ∧
        2147483648 ≤ ((0 : Clock) - 1).toNat) := by decide +kernel

theorem witness_CommitmentFormsTheExchange :
    (let s := { State.reset with engine := { State.reset.engine with quiet := 8334 } }; s.engine.maySend = true) ∧
      State.reset.engine.maySend = false ∧ (request10 .waiting).kind = .put ∧ castRequest.kind = .broadcast := by
  decide +kernel

/-- A LINE report that finds one to merge with and one that finds none. -/
theorem witness_ReportsMergeOrJoinTheTail :
    (∀ e ∈ State.reset.reports.queue,
      e.status = .unsent → e.report.merge? (.line .master .yielded .contention .echo 0) = none) ∧
      Report.merge? (.line .stopping .off .stopped .none 0) (.line .master .yielded .contention .echo 0) =
        some (.line .stopping .yielded .contention .echo 1) := by decide

/-- A PUT on the line that has begun to be answered, its station's next poll still ahead. -/
def underWay : State :=
  { (putting .master .receiving (.collecting [0xA0#8, 7#8])).setStation 6
      { online with nextDue := some ⟨200, false, false⟩ } with clock := 20 }

theorem underWay_stations (a : Addr) :
    underWay.station a = if a = 6 then { online with nextDue := some ⟨200, false, false⟩ } else Station.reset := by
  revert a; decide +kernel

theorem underWay_stationsOk : StationsOk underWay ∧ TimetableOk underWay := by
  constructor
  · intro a
    rw [underWay_stations]
    split <;> simp [Station.fits, Station.reset, online]
  · intro _
    exact ⟨by decide +kernel, by decide +kernel⟩

theorem underWay_callQueueOk : CallQueueOk underWay := by
  refine ⟨by decide +kernel, by decide +kernel, ?_, by decide +kernel, ?_, ?_, by decide +kernel, by decide +kernel⟩
  · unfold Request.fits; decide +kernel
  · intro x hx _
    exact ⟨request10 .onLine, by decide +kernel, by cases hx; rfl, by cases hx; rfl⟩
  · intro x hx a ha _ _
    cases hx; cases ha; decide +kernel

theorem underWay_reportsOk : ReportsOk underWay := by unfold ReportsOk ReportUnit.fits; decide +kernel

theorem witness_ReportQueueHoldsAtMost84 : CallQueueOk underWay ∧ ReportsOk underWay :=
  ⟨underWay_callQueueOk, underWay_reportsOk⟩

/-- The hypotheses of the four statements of what every step keeps. -/
theorem witness_EveryStepKeeps : DeviceOk underWay ∧ step underWay = .next (underWay.elapse 1) := by
  refine ⟨⟨underWay_stationsOk.1, underWay_stationsOk.2, ?_, underWay_callQueueOk, underWay_reportsOk, ?_, ?_, ?_⟩, rfl⟩
  · unfold LineOk; decide +kernel
  · unfold HostSideOk; decide +kernel
  · unfold ParametersOk LineParams.inRange Fallback.inRange; decide +kernel
  · unfold HeldOk; decide +kernel

end Sys2Proof.Tests
end

section
/-!
SUPPORT. Entries in their ranges, and next due beside the call on the line.
-/

namespace Sys2Proof.Machine

/-! ### Entries within their ranges (R1, R25) -/

theorem Station.reset_fits : Station.reset.fits := by simp [Station.fits, Station.reset]

/-- Which entry an address reads after a write. -/
theorem State.station_setStation (a b : Addr) (e : Station) (s : State) :
    (s.setStation a e).station b = if b = a then e else s.station b := by
  by_cases h : b = a
  · subst h; simp
  · simp [h, State.station_setStation_other h]

theorem State.station_withStation (a b : Addr) (f : Station → Station) (s : State) :
    (s.withStation a f).station b = if b = a then f (s.station a) else s.station b :=
  State.station_setStation a b _ s

/-- A change of stations alone is seen at each address. -/
theorem State.station_of_stations {s t : State} (h : t.stations = s.stations) (a : Addr) :
    t.station a = s.station a := by
  simp [State.station, h]

theorem StationsOk.of_stations {s t : State} (h : StationsOk s) (e : t.stations = s.stations) : StationsOk t :=
  fun a => by rw [State.station_of_stations e]; exact h a

theorem StationsOk.setStation {s : State} (h : StationsOk s) {a : Addr} {e : Station} (he : e.fits) :
    StationsOk (s.setStation a e) := by
  intro b
  rw [State.station_setStation]
  split
  · exact he
  · exact h b

/-- Next due takes no part in the ranges of an enrolled entry. -/
theorem Station.fits.withDue {e : Station} (h : e.fits) (enrolled : e.state ≠ .vacant) (due : Option DueTime) :
    ({ e with nextDue := due } : Station).fits := by
  revert h enrolled
  simp only [Station.fits]
  cases e.state <;> simp

/-- R18, R28: the counters, the last fault and the toggle are all an outcome counts. -/
theorem Station.count_shape (now : Clock) (d : Delivery) (e : Station) :
    ∃ good missed probe fault toggle, e.count now d =
      { e with
        goodExchanges := good, missedExchanges := missed, probeMisses := probe, lastFault := fault
        toggle := toggle } := by
  unfold Station.count
  split <;> repeat' split
  all_goals exact ⟨_, _, _, _, _, rfl⟩

theorem Station.fits.count {e : Station} (h : e.fits) (enrolled : e.state ≠ .vacant) (now : Clock)
    (d : Delivery) : (e.count now d).fits := by
  obtain ⟨good, missed, probe, fault, toggle, shape⟩ := e.count_shape now d
  rw [shape]
  revert h enrolled
  simp only [Station.fits]
  cases e.state <;> simp

/-- R58: the grid gives a next due and raises the overruns, and nothing else. -/
theorem Station.afterPoll_shape (now : Clock) (anchor : DueTime) (e : Station) :
    ∃ due overruns, e.afterPoll now anchor = { e with nextDue := due, pollOverruns := overruns } ∧
      due.isSome = decide (1 ≤ e.level) := by
  unfold Station.afterPoll Station.nextOnGrid
  by_cases level : 1 ≤ e.level
  · rw [if_pos level]
    split
    · exact ⟨_, _, rfl, by simp [level]⟩
    · exact ⟨_, _, rfl, by simp [level]⟩
  · rw [if_neg level]
    exact ⟨_, _, rfl, by simp [level]⟩

/-- R20, R21: an answer makes the station ONLINE with miss count 0; its origin decides the next due. -/
theorem Station.answered_shape (now : Clock) (origin : Origin) (e : Station) :
    ∃ due overruns, e.answered now origin =
        { e with state := .online, missCount := 0, nextDue := due, pollOverruns := overruns } ∧
      ((origin.isPoll = true → due.isSome = decide (1 ≤ e.level)) ∧
        (origin.isPoll = false → e.state = .online ∨ origin.isRequest = false → due = e.nextDue) ∧
        (origin.isRequest = true → e.state = .suspect → due = if 1 ≤ e.level then e.nextDue else none)) := by
  cases origin with
  | poll anchor =>
    obtain ⟨due, overruns, shape, some⟩ :=
      Station.afterPoll_shape now anchor { e with state := .online, missCount := 0 }
    exact ⟨due, overruns, by simp only [Station.answered, shape], by simpa [Origin.isPoll, Origin.isRequest]⟩
  | recoveryPoll anchor =>
    obtain ⟨due, overruns, shape, some⟩ :=
      Station.afterPoll_shape now anchor { e with state := .online, missCount := 0 }
    exact ⟨due, overruns, by simp only [Station.answered, shape], by simpa [Origin.isPoll, Origin.isRequest]⟩
  | probe anchor => exact ⟨_, _, rfl, by simp [Origin.isPoll, Origin.isRequest]⟩
  | fallback => exact ⟨_, _, rfl, by simp [Origin.isPoll, Origin.isRequest]⟩
  | request tag =>
    refine ⟨if e.state = .suspect ∧ ¬ 1 ≤ e.level then none else e.nextDue, e.pollOverruns, ?_, ?_⟩
    · simp only [Station.answered, Station.afterRequestAnswer, beq_iff_eq]
      split <;> split <;> simp_all
    · refine ⟨by simp [Origin.isPoll], ?_, ?_⟩
      · intro _ h
        rcases h with h | h
        · simp [h]
        · simp [Origin.isRequest] at h
      · intro _ h
        by_cases level : 1 ≤ e.level <;> simp [h, level]

/-- R25: an ONLINE entry has miss count 0. -/
theorem Station.fits.online {e : Station} (h : e.fits) (known : e.state = .online ∨ e.state = .suspect)
    (due : Option DueTime) (overruns : Half) :
    ({ e with state := .online, missCount := 0, nextDue := due, pollOverruns := overruns } : Station).fits := by
  revert h
  rcases known with known | known <;> simp +contextual [Station.fits, known]

/-- R20, R21: a miss below the miss limit leaves a SUSPECT entry with its miss count. -/
theorem Station.fits.suspect {e : Station} (h : e.fits) (known : e.state = .online ∨ e.state = .suspect)
    (below : e.countMiss < e.missLimit) (due : Option DueTime) :
    ({ e with state := .suspect, missCount := e.countMiss, nextDue := due } : Station).fits := by
  revert h below
  rcases known with known | known <;> simp +contextual [Station.fits, known, Station.countMiss]

/-- R22: the entry of a station that has entered LOST. -/
def Station.lostEntry (due : DueTime) (e : Station) : Station :=
  { e with state := .lost, missCount := e.missLimit, reportedImage := none, nextDue := some due }

/-- R25: the miss count of a LOST and of a SUSPECT entry. -/
theorem Station.fits.missCount {e : Station} (h : e.fits) :
    (e.state = .lost → e.missCount = e.missLimit) ∧ (e.state = .suspect → e.missCount < e.missLimit) := by
  revert h
  simp only [Station.fits]
  cases e.state <;> simp +contextual

theorem Station.fits.lostWithLimit {e : Station} (h : e.fits) (known : e.state = .online ∨ e.state = .suspect)
    {limit : Nat} (range : 1 ≤ limit ∧ limit ≤ 15) (due : DueTime) :
    (({ e with missLimit := limit } : Station).lostEntry due).fits := by
  revert h
  rcases known with known | known <;> simp +contextual [Station.fits, known, Station.lostEntry, range]

theorem Station.fits.lostEntry {e : Station} (h : e.fits) (known : e.state = .online ∨ e.state = .suspect)
    (due : DueTime) : (e.lostEntry due).fits := by
  obtain ⟨-, -, -, -, -, low, high, -⟩ := id h
  exact h.lostWithLimit known ⟨low, high⟩ due

/-- R19, R23: the entry of a station found, returned or parked by its identity. -/
theorem Station.fits.found {e : Station} (h : e.fits) (enrolled : e.state ≠ .vacant) (now : Clock)
    (identity : Identity) : (e.found now identity).fits := by
  revert h enrolled
  simp +contextual [Station.fits, Station.found]

theorem Station.fits.mismatched {e : Station} (h : e.fits) (enrolled : e.state ≠ .vacant) (identity : Identity) :
    (e.mismatched identity).fits := by
  revert h enrolled
  simp +contextual [Station.fits, Station.mismatched]

/-- R26: an image of the entry's image length. -/
theorem Station.fits.withImage {e : Station} (h : e.fits) (enrolled : e.state ≠ .vacant) {data : List Byte}
    (length : data.length = e.imageLength) :
    ({ e with image := some data } : Station).fits ∧
      ({ e with image := some data, reportedImage := some data } : Station).fits := by
  revert h enrolled
  simp only [Station.fits]
  cases e.state <;> simp +contextual [length]

theorem Station.fits.parked {e : Station} (h : e.fits) (enrolled : e.state ≠ .vacant) : e.parked.fits := by
  revert h enrolled
  simp +contextual [Station.fits, Station.parked]

/-! ### Parameters in range (R175) -/

theorem inRange_some {lo hi n m : Nat} : inRange lo hi n = some m ↔ m = n ∧ lo ≤ n ∧ n ≤ hi := by
  unfold inRange
  split
  · next h => simp [h, eq_comm]
  · next h => simp [h]

theorem rangeMask_some {n : Nat} {mask : List Byte} {given : Option (List Byte)}
    (h : rangeMask n mask = some given) : ∀ m ∈ given, m.length = n := by
  cases mask with
  | nil => simp [rangeMask] at h; subst h; simp
  | cons b rest =>
    simp only [rangeMask, Option.ite_none_right_eq_some, Option.some.injEq] at h
    obtain ⟨length, rfl⟩ := h
    simpa using length

theorem checkOptional_some {α β : Type} {check : α → Option β} {x : Option α} {given : Option β}
    (h : checkOptional check x = some given) : ∀ y ∈ given, ∃ b ∈ x, check b = some y := by
  cases x with
  | none => simp [checkOptional] at h; subst h; simp
  | some b =>
    simp only [checkOptional, Option.map_eq_some_iff] at h
    obtain ⟨y, hy, rfl⟩ := h
    simpa using hy

/-- R4, R175: the ranges of an ENROL. -/
structure EnrolParams.fits (p : EnrolParams) : Prop where
  level : p.level ≤ 7
  period : 10 ≤ p.period ∧ p.period ≤ 60000
  imageLength : 1 ≤ p.imageLength ∧ p.imageLength ≤ 16
  mask : ∀ m ∈ p.watchMask, m.length = p.imageLength
  missLimit : ∀ l ∈ p.missLimit, 1 ≤ l ∧ l ≤ 15

theorem rangeEnrol_fits {raw : RawEnrol} {p : EnrolParams} (h : rangeEnrol raw = some p) : p.fits := by
  simp only [rangeEnrol, Option.bind_eq_bind, Option.bind_eq_some_iff, Option.some.injEq] at h
  obtain ⟨address, _, level, hlevel, period, hperiod, length, hlength, mode, _, mask, hmask, limit, hlimit, rfl⟩ := h
  rw [inRange_some] at hlevel hperiod hlength
  refine ⟨by simp; omega, by simp; omega, by simp; omega, rangeMask_some hmask, ?_⟩
  intro l hl
  obtain ⟨b, _, hb⟩ := checkOptional_some hlimit l hl
  rw [rangeMissLimit, inRange_some] at hb
  omega

theorem Station.enrolled_fits (now : Clock) {p : EnrolParams} (h : p.fits) : (Station.enrolled now p).fits := by
  obtain ⟨level, period, length, mask, limit⟩ := h
  have maskLength : (p.watchMask.getD (List.replicate p.imageLength 0xFF#8)).length = p.imageLength := by
    cases hm : p.watchMask with
    | none => simp
    | some m => exact mask m hm
  have limitRange : 1 ≤ p.missLimit.getD 3 ∧ p.missLimit.getD 3 ≤ 15 := by
    cases hl : p.missLimit with
    | none => simp
    | some l => exact limit l hl
  simp only [Station.fits, Station.enrolled, Station.reset]
  exact ⟨level, period.1, period.2, length.1, length.2, limitRange.1, limitRange.2, maskLength, by simp, by simp,
    by simp⟩

/-- R6, R175: the ranges of a MODIFY of an entry with the image length given. -/
structure ModifyParams.fits (present : Nat) (p : ModifyParams) : Prop where
  level : ∀ l ∈ p.level, l ≤ 7
  period : ∀ n ∈ p.period, 10 ≤ n ∧ n ≤ 60000
  imageLength : ∀ n ∈ p.imageLength, 1 ≤ n ∧ n ≤ 16
  mask : ∀ m ∈ p.watchMask, m.length = p.imageLength.getD present
  missLimit : ∀ l ∈ p.missLimit, 1 ≤ l ∧ l ≤ 15

theorem rangeModify_fits {present : Addr → Nat} {raw : RawModify} {p : ModifyParams}
    (h : rangeModify present raw = some p) : p.fits (present p.address) := by
  simp only [rangeModify, Option.bind_eq_bind, Option.bind_eq_some_iff, Option.some.injEq] at h
  obtain ⟨address, _, level, hlevel, period, hperiod, length, hlength, mask, hmask, mode, _, limit, hlimit, rfl⟩ := h
  refine ⟨fun l hl => ?_, fun n hn => ?_, fun n hn => ?_, rangeMask_some hmask, fun l hl => ?_⟩
  · obtain ⟨b, _, hb⟩ := checkOptional_some hlevel l hl
    rw [rangeLevel, inRange_some] at hb
    omega
  · obtain ⟨b, _, hb⟩ := checkOptional_some hperiod n hn
    rw [rangePeriod, inRange_some] at hb
    omega
  · obtain ⟨b, _, hb⟩ := checkOptional_some hlength n hn
    rw [rangeImageLength, inRange_some] at hb
    omega
  · obtain ⟨b, _, hb⟩ := checkOptional_some hlimit l hl
    rw [rangeMissLimit, inRange_some] at hb
    omega

/-- R6 to R11: an enrolled entry after a MODIFY in range that does not bring it into LOST. -/
theorem Station.fits.modified {e : Station} {p : ModifyParams} (h : e.fits) (enrolled : e.state ≠ .vacant)
    (range : p.fits e.imageLength) (now : Clock) (inProgress : Bool) {limit count : Nat}
    (hlimit : 1 ≤ limit ∧ limit ≤ 15)
    (lost : e.state = .lost → count = limit) (other : e.state ≠ .lost → count = e.missCount)
    (below : e.state = .suspect → e.missCount < limit) :
    ({ e.modified now inProgress p with missLimit := limit, missCount := count } : Station).fits := by
  rw [Station.modified_eq]
  obtain ⟨level, period, imageLength, mask, missLimit⟩ := range
  obtain ⟨f1, f2, f3, f4, f5, f6, f7, f8, f9, f10, f11⟩ := h
  have hlevel : p.level.getD e.level ≤ 7 := by
    cases hl : p.level with
    | none => exact f1
    | some l => exact level l hl
  have hperiod : 10 ≤ p.period.getD e.period ∧ p.period.getD e.period ≤ 60000 := by
    cases hn : p.period with
    | none => exact ⟨f2, f3⟩
    | some n => exact period n hn
  have hlength : 1 ≤ p.imageLength.getD e.imageLength ∧ p.imageLength.getD e.imageLength ≤ 16 := by
    cases hn : p.imageLength with
    | none => exact ⟨f4, f5⟩
    | some n => exact imageLength n hn
  simp only [Station.fits]
  refine ⟨hlevel, hperiod.1, hperiod.2, hlength.1, hlength.2, hlimit.1, hlimit.2, ?_, ?_, ?_, ?_⟩
  · cases hm : p.watchMask with
    | some m => exact mask m hm
    | none =>
      simp only [Option.getD_none]
      split
      · next same => rw [same]; exact f8
      · simp
  · split
    · next same => rw [same]; exact f9
    · simp
  · split
    · next same => rw [same]; exact f10
    · simp
  · revert f11 lost other below enrolled
    cases e.state <;> simp +contextual

/-! ### Next due and the state that calls for it (R3, R55, R61) -/

/-- The origin of the call a due time stands for. -/
def DueCall.fitsOrigin : DueCall → Origin → Bool
  | .poll => Origin.isCyclicPoll
  | .recoveryPoll => Origin.isRecoveryPoll
  | .probe => Origin.isProbe

/-- R3, R55: next due is present exactly while the state calls for a call that is not committed. -/
theorem Station.dueFits_iff (g : LineEngine) (a : Addr) (e : Station) :
    e.dueFits g a = true ↔
      (e.nextDue.isSome = true ↔ ∃ c, e.dueCall? = some c ∧ g.serving c.fitsOrigin a = false) := by
  unfold Station.dueFits Station.dueCall?
  cases e.state <;> simp [DueCall.fitsOrigin]
  case online =>
    by_cases level : 1 ≤ e.level
    · cases e.nextDue <;> simp [level]
    · cases e.nextDue <;> simp [level]
  all_goals cases e.nextDue <;> simp

/-- Next due is present exactly where the state calls for a call. -/
def Station.dueRight (e : Station) : Prop := e.nextDue.isSome = e.dueCall?.isSome

/-- For an address no call on the line names, that is all `dueFits` says. -/
theorem Station.dueFits_of_unserved {g : LineEngine} {a : Addr} (h : ∀ origin, g.serving origin a = false)
    (e : Station) : e.dueFits g a = true ↔ e.dueRight := by
  rw [Station.dueFits_iff, Station.dueRight]
  simp only [h, and_true]
  rw [← Option.isSome_iff_exists, ← Bool.eq_iff_iff]

/-- The record of the exchange in progress. -/
def LineEngine.record? (g : LineEngine) : Option ExchangeRecord := g.exchange.map fun x => x.record

theorem LineEngine.serving_eq (g : LineEngine) (origin : Origin → Bool) (a : Addr) :
    g.serving origin a = g.record?.any fun r => r.station == some a && origin r.origin && !r.orphaned := by
  unfold LineEngine.serving LineEngine.record?
  cases g.exchange <;> rfl

/-- R3, R61, R69: what `TimetableOk` says of a running device. -/
def Timed (s : State) : Prop :=
  (∀ a : Addr, (s.station a).dueFits s.engine a = true) ∧
  (∀ x ∈ s.engine.exchange, ∀ a ∈ x.record.station, x.record.orphaned = false →
    x.record.origin.fitsState x.record.kind (s.station a).state = true)

theorem timetableOk_iff (s : State) : TimetableOk s ↔ (s.held = false → Timed s) := Iff.rfl

/-- With no call on the line the timetable is each entry's own. -/
theorem timed_of_idle {s : State} (idle : s.engine.exchange = none) :
    Timed s ↔ ∀ a, (s.station a).dueRight := by
  have unserved : ∀ a origin, s.engine.serving origin a = false := by
    intro a origin; simp [LineEngine.serving, idle]
  simp only [Timed, idle, Station.dueFits_of_unserved (unserved _)]
  simp

/-- The timetable looks at the stations and at the record of the call on the line. -/
theorem Timed.congr {s t : State} (h : Timed s) (stations : t.stations = s.stations)
    (record : t.engine.record? = s.engine.record?) : Timed t := by
  have serving : ∀ origin a, t.engine.serving origin a = s.engine.serving origin a := by
    intro origin a; rw [LineEngine.serving_eq, LineEngine.serving_eq, record]
  refine ⟨fun a => ?_, fun x hx a ha live => ?_⟩
  · have := h.1 a
    rw [Station.dueFits_iff] at this ⊢
    simpa [State.station_of_stations stations, serving] using this
  · have : x.record ∈ s.engine.record? := by
      rw [← record]; exact Option.mem_map_of_mem _ hx
    obtain ⟨y, hy, same⟩ := Option.mem_map.1 this
    rw [State.station_of_stations stations, ← same]
    rw [← same] at ha live
    exact h.2 y hy a ha live

/-- An entry no call on the line is for has its next due where its state calls for one. -/
theorem Timed.dueRight {s : State} (h : Timed s) {a : Addr}
    (unserved : ∀ x ∈ s.engine.exchange, x.record.station = some a → x.record.orphaned = true) :
    (s.station a).dueRight := by
  refine (Station.dueFits_of_unserved (g := s.engine) (a := a) (fun origin => ?_) _).1 (h.1 a)
  unfold LineEngine.serving
  cases hx : s.engine.exchange with
  | none => rfl
  | some x =>
    by_cases named : x.record.station = some a
    · simp [unserved x hx named]
    · simp [named]

/-- A change of one entry that keeps its due time and its committed call in agreement with its state. -/
theorem Timed.setEntry {s : State} (h : Timed s) {a : Addr} {e : Station} (due : e.dueFits s.engine a = true)
    (state : ∀ x ∈ s.engine.exchange, x.record.station = some a → x.record.orphaned = false →
      x.record.origin.fitsState x.record.kind e.state = true) : Timed (s.setStation a e) := by
  refine ⟨fun b => ?_, fun x hx b hb live => ?_⟩ <;> rw [State.station_setStation]
  · split
    · next same => subst same; exact due
    · exact h.1 b
  · split
    · next same => subst same; exact state x hx hb live
    · exact h.2 x hx b hb live

/-- A change of one entry, which no call on the line is for. -/
theorem Timed.setStation {s : State} (h : Timed s) {a : Addr} {e : Station} (right : e.dueRight)
    (unserved : ∀ x ∈ s.engine.exchange, x.record.station = some a → x.record.orphaned = true) :
    Timed (s.setStation a e) := by
  refine h.setEntry ((Station.dueFits_of_unserved (fun origin => ?_) e).2 right) fun x hx named live => ?_
  · unfold LineEngine.serving
    cases hx : s.engine.exchange with
    | none => rfl
    | some x =>
      by_cases named : x.record.station = some a
      · simp [unserved x hx named]
      · simp [named]
  · rw [unserved x hx named] at live; cases live

end Sys2Proof.Machine
end

section
/-!
SUPPORT. Selections: what one starts from, and what the commitment keeps.
-/

namespace Sys2Proof.Machine

/-! ### What a selection starts from (R37, R61, R64) -/

/-- What a selection needs of the stations, the timetable and the Call Queue. -/
structure Scheduled (s : State) : Prop where
  stations : StationsOk s
  timed : Timed s
  kinds : ∀ r ∈ s.requests, r.kind = .broadcast → r.station = none
  waits : ∀ r ∈ s.requests, r.state = .waiting → ∀ a ∈ r.station, (s.station a).state.serves = true

/-- R37: a request among the candidates is live and WAITING. -/
theorem State.request_mem_candidates {s : State} {r : Request} (h : .request r ∈ s.candidates) :
    r ∈ s.requests ∧ r.state = .waiting := by
  have eligible : r ∈ s.eligible := by
    rcases List.mem_append.1 h with h | h
    · obtain ⟨q, hq, same⟩ := List.mem_map.1 h
      cases same; exact hq
    · obtain ⟨a, _, ha⟩ := List.mem_filterMap.1 h
      simp only [Station.candidate?] at ha
      repeat' split at ha
      all_goals simp at ha
  obtain ⟨earlier, later, split, waiting, -⟩ := (mem_eligibleAfter [] s.requests r).1 eligible
  exact ⟨by simp [split], waiting⟩

/-- R61: a due time among the candidates is its station's, whose state calls for that call. -/
theorem State.due_mem_candidates {s : State} {call : DueCall} {a : Addr} {d : DueTime}
    (h : .due call a d ∈ s.candidates) :
    (s.station a).dueCall? = some call ∧ (s.station a).nextDue = some d := by
  rcases List.mem_append.1 h with h | h
  · simp at h
  · obtain ⟨b, _, hb⟩ := List.mem_filterMap.1 h
    simp only [Station.candidate?] at hb
    split at hb
    · next calls due =>
      split at hb
      · simp only [Option.some.injEq, Candidate.due.injEq] at hb
        obtain ⟨rfl, rfl, rfl⟩ := hb
        exact ⟨calls, due⟩
      · cases hb
    · cases hb
    · cases hb

/-- An entry whose state calls for a call is enrolled. -/
theorem Station.enrolled_of_dueCall? {e : Station} {call : DueCall} (h : e.dueCall? = some call) :
    e.state ≠ .vacant := by
  intro vacant
  simp [Station.dueCall?, vacant] at h

theorem Station.dueCall?_withDue (e : Station) (due : Option DueTime) :
    ({ e with nextDue := due } : Station).dueCall? = e.dueCall? := rfl

/-! ### Commitments (R67, R92) -/

/-- R92: the call committed waits in GAP, or has begun. -/
theorem LineEngine.commit_cases (r : ExchangeRecord) (g : LineEngine) :
    LineEngine.commit r g = { g with exchange := some ⟨r, .gap⟩ } ∨
      LineEngine.commit r g = { g with exchange := some ⟨r, .sending 0 0 0⟩, lde := true } := by
  unfold LineEngine.commit LineEngine.tryStart
  dsimp only
  split
  · exact .inr rfl
  · exact .inl rfl

@[simp] theorem LineEngine.commit_record? (r : ExchangeRecord) (g : LineEngine) :
    (LineEngine.commit r g).record? = some r := by
  rcases LineEngine.commit_cases r g with h | h <;> simp [h, LineEngine.record?]

/-- The timetable by the record of the call on the line. -/
theorem timed_iff_record (s : State) :
    Timed s ↔ (∀ a, (s.station a).dueFits s.engine a = true) ∧
      ∀ r ∈ s.engine.record?, ∀ a ∈ r.station, r.orphaned = false →
        r.origin.fitsState r.kind (s.station a).state = true := by
  unfold Timed LineEngine.record?
  cases s.engine.exchange <;> simp

/-- R67: the commitment of a request keeps the timetable. -/
theorem Scheduled.commit_request_timed {s : State} (h : Scheduled s) (idle : s.engine.exchange = none)
    {r : Request} (mem : r ∈ s.requests) (waiting : r.state = .waiting) : Timed (s.commit (.request r)) := by
  have record : (s.commit (.request r)).engine.record? = some (s.requestRecord r) := by simp [State.commit]
  have stations : (s.commit (.request r)).stations = s.stations := rfl
  rw [timed_iff_record]
  refine ⟨fun a => ?_, fun q hq a ha _ => ?_⟩
  · rw [State.station_of_stations stations, Station.dueFits_iff]
    have free : ∀ c : DueCall, (s.commit (.request r)).engine.serving c.fitsOrigin a = false := by
      intro c
      rw [LineEngine.serving_eq, record]
      cases c <;> simp [State.requestRecord, DueCall.fitsOrigin, Origin.isCyclicPoll, Origin.isRecoveryPoll,
        Origin.isProbe]
    have right := (timed_of_idle idle).1 h.timed a
    rw [Station.dueRight] at right
    simp only [free, and_true, right]
    rw [Option.isSome_iff_exists]
  · rw [record] at hq
    cases hq
    have station : r.station = some a := ha
    have kind : r.kind ≠ .broadcast := fun k => by rw [h.kinds r mem k] at station; cases station
    have serves := h.waits r mem waiting a station
    rw [State.station_of_stations stations]
    revert kind serves
    cases hk : r.kind <;> cases (s.station a).state <;>
      simp [State.requestRecord, hk, Origin.fitsState, StationState.serves]

/-- R67: the commitment of a due call takes its due time out of the entry. -/
theorem Scheduled.commit_due_timed {s : State} (h : Scheduled s) (idle : s.engine.exchange = none)
    {call : DueCall} {a : Addr} {d : DueTime} (calls : (s.station a).dueCall? = some call) :
    Timed (s.commit (.due call a d)) := by
  have record : (s.commit (.due call a d)).engine.record? = some (s.dueRecord call a d) := by simp [State.commit]
  have stations : (s.commit (.due call a d)).stations =
      (s.setStation a { s.station a with nextDue := none }).stations := rfl
  have own : call.fitsOrigin (s.dueRecord call a d).origin = true := by cases call <;> rfl
  rw [timed_iff_record]
  refine ⟨fun b => ?_, fun q hq b hb _ => ?_⟩
  · rw [State.station_of_stations stations, State.station_setStation, Station.dueFits_iff]
    have served : ∀ c : DueCall, (s.commit (.due call a d)).engine.serving c.fitsOrigin b =
        (decide (b = a) && c.fitsOrigin (s.dueRecord call a d).origin) := by
      intro c
      rw [LineEngine.serving_eq, record]
      simp only [Option.any_some, State.dueRecord, Bool.not_false, Bool.and_true]
      congr 1
      rw [Bool.eq_iff_iff, beq_iff_eq, Option.some.injEq, decide_eq_true_eq]
      exact eq_comm
    split
    · next same =>
      subst same
      simp only [served, decide_true, Bool.true_and, Station.dueCall?_withDue, calls, Option.isSome_none,
        Bool.false_eq_true, false_iff, not_exists, not_and, Option.some.injEq]
      rintro c rfl
      simp [own]
    · next other =>
      have right := (timed_of_idle idle).1 h.timed b
      rw [Station.dueRight] at right
      simp only [served, other, decide_false, Bool.false_and, and_true, right]
      rw [Option.isSome_iff_exists]
  · rw [record] at hq
    cases hq
    have same : a = b := Option.some.inj hb
    subst same
    rw [State.station_of_stations stations, State.station_setStation_self]
    revert calls
    unfold Station.dueCall?
    cases (s.station a).state <;> cases call <;> simp [State.dueRecord, Origin.fitsState]

/-! ### A selection (R64, R66) -/

/-- R64: a selection is made with the Line Engine IDLE, in MASTER, with no fallback pending. -/
theorem State.maySelect_iff (s : State) :
    s.maySelect = true ↔ s.engine.exchange = none ∧ s.engine.role = .master ∧ s.fallback.pending = false := by
  simp [State.maySelect, and_assoc]

theorem Scheduled.select_timed {s : State} (h : Scheduled s) : Timed s.select := by
  rcases s.select_cases with same | ⟨c, may, -, mem, committed⟩
  · rw [same]; exact h.timed
  · rw [committed]
    have idle := (s.maySelect_iff.1 may).1
    cases c with
    | request r =>
      obtain ⟨live, waiting⟩ := State.request_mem_candidates mem
      exact h.commit_request_timed idle live waiting
    | due call a d => exact h.commit_due_timed idle (State.due_mem_candidates mem).1

theorem StationsOk.select {s : State} (h : StationsOk s) : StationsOk s.select := by
  rcases s.select_cases with same | ⟨c, -, -, mem, committed⟩
  · rw [same]; exact h
  · rw [committed]
    cases c with
    | request r => exact h.of_stations rfl
    | due call a d =>
      have enrolled := Station.enrolled_of_dueCall? (State.due_mem_candidates mem).1
      exact (h.setStation ((h a).withDue enrolled none)).of_stations rfl

/-! ### The Line Engine, its framer and the fallback (R90, R94, R114, R187) -/

/-- What `LineOk` says of a running device. -/
def Lined (s : State) : Prop :=
  s.engine.role.fitsExchange s.engine.exchange = true ∧ s.engine.linesFit = true ∧
    s.engine.framer.fits = true ∧ s.fallback.fits s.engine = true

theorem lineOk_iff (s : State) : LineOk s ↔ (s.held = false → Lined s) := Iff.rfl

theorem ExchangeRecord.call_pos (r : ExchangeRecord) : 0 < r.call.length := by simp [ExchangeRecord.call]

theorem Lined.congr {s t : State} (h : Lined s) (engine : t.engine = s.engine)
    (fallback : t.fallback = s.fallback) : Lined t := by
  unfold Lined; rw [engine, fallback]; exact h

/-- R67, R94: a call committed in MASTER. `pending` and `phase` are the fallback's once it is committed. -/
theorem lined_of_commit {s t : State} {r : ExchangeRecord} (engine : t.engine = LineEngine.commit r s.engine)
    (role : s.engine.role = .master) (lde : s.engine.lde = false) (framer : s.engine.framer.fits = true)
    (timer : t.fallback.timer.isSome = true → t.fallback.armed = true ∧ t.fallback.pending = false)
    (phase : r.origin ≠ .fallback ∧ t.fallback.phase = .none ∧ t.fallback.pending = false ∨
      r.origin = .fallback ∧ t.fallback.phase = .broadcast ∧ t.fallback.pending = true) : Lined t := by
  have fallback : t.fallback.timer.isNone = true ∨ t.fallback.armed = true ∧ t.fallback.pending = false := by
    cases ht : t.fallback.timer with
    | none => exact .inl rfl
    | some start => exact .inr (timer (by simp [ht]))
  unfold Lined
  rw [engine]
  have long := r.call_pos
  rcases LineEngine.commit_cases r s.engine with h | h <;> rw [h] <;>
    rcases phase with ⟨origin, phase, pending⟩ | ⟨origin, phase, pending⟩ <;>
    simp [LineRole.fitsExchange, LineEngine.linesFit, Fallback.fits, LineEngine.onFallback, role, lde, framer,
      origin, phase, pending, long] <;> simpa [pending] using fallback

/-- R94, R187: the line with no exchange in progress, in a role other than STOPPING. -/
theorem lined_of_idle {s : State} (idle : s.engine.exchange = none) :
    Lined s ↔ s.engine.role ≠ .stopping ∧ s.engine.lde = false ∧ s.engine.framer.fits = true ∧
      (s.fallback.timer.isSome = true → s.fallback.armed = true ∧ s.engine.role = .master) ∧
      s.fallback.pending = false ∧ s.fallback.phase = .none := by
  unfold Lined LineEngine.linesFit Fallback.fits LineEngine.onFallback
  rw [idle]
  cases s.engine.role <;> cases s.fallback.phase <;> cases s.fallback.pending <;> cases s.fallback.timer <;>
    simp [LineRole.fitsExchange]

theorem Lined.select {s : State} (h : Lined s) : Lined s.select := by
  rcases s.select_cases with same | ⟨c, may, -, -, committed⟩
  · rw [same]; exact h
  · obtain ⟨idle, role, pending⟩ := s.maySelect_iff.1 may
    obtain ⟨-, lde, framer, timer, -, phase⟩ := (lined_of_idle idle).1 h
    have fallback : (s.commit c).fallback = s.fallback := State.commit_fallback c s
    have start : ∀ r : ExchangeRecord, r.origin ≠ .fallback → (s.commit c).engine = LineEngine.commit r s.engine →
        Lined (s.commit c) := by
      intro r origin engine
      refine lined_of_commit engine role lde framer ?_ (.inl ⟨origin, by rw [fallback]; exact ⟨phase, pending⟩⟩)
      rw [fallback]
      exact fun some => ⟨(timer some).1, pending⟩
    rw [committed]
    cases c with
    | request r => exact start (s.requestRecord r) (by simp [State.requestRecord]) rfl
    | due call a d => exact start (s.dueRecord call a d) (by cases call <;> simp [State.dueRecord]) rfl

end Sys2Proof.Machine
end

section
/-!
SUPPORT. A running device, its ends of work, and what an outcome can do.
-/

namespace Sys2Proof.Machine

/-! ### A running device and its ends of work -/

/-- What the station, timetable and line statements say, together. -/
structure Kept (s : State) : Prop where
  stations : StationsOk s
  timetable : TimetableOk s
  line : LineOk s

theorem Kept.of_timed {s : State} (stations : StationsOk s) (timed : Timed s) (lined : Lined s) : Kept s :=
  ⟨stations, fun _ => timed, fun _ => lined⟩

/-- `Kept` looks at the stations, the Line Engine, the fallback and the reset pins. -/
theorem Kept.congr {s t : State} (h : Kept s) (stations : t.stations = s.stations) (engine : t.engine = s.engine)
    (fallback : t.fallback = s.fallback) (held : t.held = s.held) : Kept t :=
  ⟨h.stations.of_stations stations,
    fun run => ((timetableOk_iff s).1 h.timetable (by rwa [held] at run)).congr stations (by rw [engine]),
    fun run => ((lineOk_iff s).1 h.line (by rwa [held] at run)).congr engine fallback⟩

theorem Kept.putReport {s : State} (h : Kept s) (r : Report) : Kept (s.putReport r) :=
  h.congr (by simp) (by simp) (by simp) (by simp)

theorem Scheduled.select_kept {s : State} (h : Scheduled s) (lined : Lined s) : Kept s.select :=
  .of_timed h.stations.select h.select_timed lined.select

/-- A running device at an event: everything but how LDE and the framer stand to the exchange state. -/
structure Ongoing (s : State) : Prop extends Scheduled s where
  running : s.held = false
  role : s.engine.role.fitsExchange s.engine.exchange = true
  framer : s.engine.framer.fits = true
  fallback : s.fallback.fits s.engine = true
  nodup : (s.requests.map fun r => r.tag).Nodup
  served : ∀ x ∈ s.engine.exchange, ∀ tag, x.record.origin = .request tag →
    ∃ r ∈ s.requests, r.tag = tag ∧ x.record.station = r.station

/-- A change of the Line Engine that leaves the role and the exchange, and keeps the framer in form. -/
theorem Ongoing.withEngine {s : State} (h : Ongoing s) {f : LineEngine → LineEngine}
    (role : (f s.engine).role = s.engine.role) (exchange : (f s.engine).exchange = s.engine.exchange)
    (framer : (f s.engine).framer.fits = true) : Ongoing (s.withEngine f) where
  stations := h.stations.of_stations rfl
  timed := h.timed.congr rfl (by simp [LineEngine.record?, exchange])
  kinds := h.kinds
  waits := h.waits
  running := h.running
  role := by simpa [role, exchange] using h.role
  framer := framer
  fallback := by simpa [Fallback.fits, LineEngine.onFallback, role, exchange] using h.fallback
  nodup := h.nodup
  served := by simpa [exchange] using h.served

/-- The device with the Line Engine IDLE and LDE released, its role and fallback still to be settled. -/
structure Idle (s : State) : Prop where
  stations : StationsOk s
  right : ∀ a, (s.station a).dueRight
  exchange : s.engine.exchange = none
  lde : s.engine.lde = false
  framer : s.engine.framer.fits = true

theorem timed_of_dueRight {s : State} (right : ∀ a, (s.station a).dueRight)
    (silent : ∀ r ∈ s.engine.record?, r.station = none) : Timed s := by
  rw [timed_iff_record]
  refine ⟨fun a => (Station.dueFits_of_unserved (fun origin => ?_) _).2 (right a), fun r hr a ha => ?_⟩
  · rw [LineEngine.serving_eq]
    cases hr : s.engine.record? with
    | none => rfl
    | some r => simp [silent r hr]
  · rw [silent r hr] at ha; cases ha

theorem Idle.timed {s : State} (h : Idle s) : Timed s := (timed_of_idle h.exchange).2 h.right

/-- R127, R192: the role becomes OFF or YIELDED, and the fallback is over. -/
theorem Idle.leaveMaster_kept {s : State} (h : Idle s) {role : LineRole} (other : role ≠ .stopping) :
    Kept (s.leaveMaster role .none) := by
  have exchange : (s.leaveMaster role .none).engine.exchange = none := h.exchange
  refine .of_timed (h.stations.of_stations (by simp)) (h.timed.congr (by simp) rfl) ?_
  exact (lined_of_idle exchange).2 ⟨other, h.lde, h.framer, by simp [State.leaveMaster], rfl, rfl⟩

theorem Idle.endFallback_kept {s : State} (h : Idle s) (detail : LineDetail) : Kept (s.endFallback detail) :=
  (h.leaveMaster_kept (by simp)).putReport _

/-- R190, R191, R192: a pending fallback moves on. -/
theorem Idle.advanceFallback_kept {s : State} (h : Idle s) (role : s.engine.role = .master)
    (timer : s.fallback.timer = none) (pending : s.fallback.pending = true) : Kept s.advanceFallback := by
  unfold State.advanceFallback
  cases s.fallback.payload with
  | none => exact h.endFallback_kept _
  | some payload =>
    refine .of_timed (h.stations.of_stations rfl) (timed_of_dueRight h.right ?_) ?_
    · simp [fallbackRecord]
    · exact lined_of_commit (s := s) (r := fallbackRecord payload) rfl role h.lde h.framer (by simp [timer])
        (.inr ⟨rfl, rfl, pending⟩)

/-! ### An outcome at its station (R17 to R24) -/

/-- R47, R48: a request after the removal of those waiting for a station. -/
def Request.removedFor (a : Addr) (r : Request) : Request :=
  if r.state = .waiting ∧ r.station = some a then { r with state := .reported } else r

/-- `t` has the entry `e` for the address, every other entry and the live set of `s`. -/
structure State.EntryBecomes (s : State) (a : Addr) (e : Station) (t : State) : Prop where
  stations : t.stations = (s.setStation a e).stations
  requests : t.requests = s.requests

/-- `t` has the entry `e` for the address, every other entry of `s`, and no request waiting for the address. -/
structure State.EntryDrops (s : State) (a : Addr) (e : Station) (t : State) : Prop where
  stations : t.stations = (s.setStation a e).stations
  requests : t.requests = s.requests.map (Request.removedFor a)

/-- The entries a HAIL can leave of a counted entry. -/
inductive Station.HailLeaves (e : Station) : Station → Prop
  | found (now : Clock) (identity : Identity) : e.HailLeaves (e.found now identity)
  | mismatched (identity : Identity) : e.HailLeaves (e.mismatched identity)
  | probedAgain (due : DueTime) : e.HailLeaves { e with nextDue := some due }

/-- The entries an answer to a POLL, PUT or GET can leave of a counted entry. -/
inductive Station.AnswerLeaves (now : Clock) (d : Delivery) (e : Station) : Station → Prop
  | plain : e.AnswerLeaves now d (e.answered now d.record.origin)
  | stored (poll : d.record.kind = .poll) (good : d.outcome = .good)
      (length : d.record.imageLength = some e.imageLength) :
      e.AnswerLeaves now d { e.answered now d.record.origin with image := some d.data }
  | reported (poll : d.record.kind = .poll) (good : d.outcome = .good)
      (length : d.record.imageLength = some e.imageLength) :
      e.AnswerLeaves now d
        { e.answered now d.record.origin with image := some d.data, reportedImage := some d.data }

/-- Everything an outcome can do, by the state of the entry; `e` is the entry with its counters raised. -/
inductive State.OutcomeLeaves (s : State) (a : Addr) (d : Delivery) (e : Station) (t : State) : Prop
  | counted (at_ : e.state = .vacant ∨ e.state = .parked ∨ e.state = .probing ∧ d.record.kind ≠ .hail ∨
        (e.state = .online ∨ e.state = .suspect) ∧ d.record.kind = .hail)
      (change : s.EntryBecomes a e t)
  | alreadyLost (at_ : e.state = .lost) (kind : d.record.kind ≠ .hail) (change : s.EntryDrops a e t)
  | hailed (at_ : e.state = .probing ∨ e.state = .lost) (kind : d.record.kind = .hail) {e' : Station}
      (leaves : e.HailLeaves e') (change : s.EntryBecomes a e' t)
  | missed (at_ : e.state = .online ∨ e.state = .suspect) (kind : d.record.kind ≠ .hail)
      (below : e.countMiss < e.missLimit)
      (change : s.EntryBecomes a
        { e with state := .suspect, missCount := e.countMiss, nextDue := some (DueTime.atOnce s.clock) } t)
  | becameLost (at_ : e.state = .online ∨ e.state = .suspect) (kind : d.record.kind ≠ .hail) (due : DueTime)
      (change : s.EntryDrops a (e.lostEntry due) t)
  | answered (at_ : e.state = .online ∨ e.state = .suspect) (kind : d.record.kind ≠ .hail) {e' : Station}
      (leaves : e.AnswerLeaves s.clock d e') (change : s.EntryBecomes a e' t)

/-- What an entry was rewritten from does not matter. -/
theorem State.EntryBecomes.of_setStation {s t : State} {a : Addr} {e e' : Station}
    (h : (s.setStation a e).EntryBecomes a e' t) : s.EntryBecomes a e' t :=
  ⟨by rw [h.stations, State.setStation_setStation], h.requests⟩

theorem State.EntryDrops.of_setStation {s t : State} {a : Addr} {e e' : Station}
    (h : (s.setStation a e).EntryDrops a e' t) : s.EntryDrops a e' t :=
  ⟨by rw [h.stations, State.setStation_setStation], h.requests⟩

/-- R22, R36: entry into LOST, at the stations and the live set. -/
theorem State.enterLost_drops (s : State) (a : Addr) (nodup : (s.requests.map fun r => r.tag).Nodup)
    (fromState : StationState) :
    s.EntryDrops a ((s.station a).lostEntry (DueTime.ahead s.clock s.engine.params.probeInterval))
      (s.enterLost a fromState) := by
  rw [State.enterLost_eq nodup]
  exact ⟨rfl, rfl⟩

@[simp] theorem Station.answered_imageLength (now : Clock) (origin : Origin) (e : Station) :
    (e.answered now origin).imageLength = e.imageLength := by
  obtain ⟨_, _, shape, -⟩ := e.answered_shape now origin
  rw [shape]

/-- R26, R27: the image is stored, and with an IMAGE report it is the reported image too. -/
theorem State.storeImage_becomes (s : State) (a : Addr) (data : List Byte) :
    s.EntryBecomes a { s.station a with image := some data } (s.storeImage a data) ∨
      s.EntryBecomes a { s.station a with image := some data, reportedImage := some data } (s.storeImage a data) := by
  unfold State.storeImage
  dsimp only
  split
  · exact .inr ⟨rfl, rfl⟩
  · exact .inl ⟨rfl, rfl⟩

theorem State.hailAnswered_leaves (s : State) (a : Addr) (must : Option Identity) (identity : Identity)
    (reason : StationReason) : ∃ e', (s.station a).HailLeaves e' ∧
      s.EntryBecomes a e' (s.hailAnswered a must identity reason) := by
  unfold State.hailAnswered
  dsimp only
  split
  · exact ⟨_, .found s.clock identity, by simp, by simp⟩
  · exact ⟨_, .mismatched identity, by simp, by simp⟩

/-- What a HAIL does to a counted entry. -/
theorem State.hail_leaves (s : State) (a : Addr) (e : Station) (good : Prop) [Decidable good]
    (must : Option Identity) (identity : Identity) (reason : StationReason) : ∃ e', e.HailLeaves e' ∧
      s.EntryBecomes a e' (if good then (s.setStation a e).hailAnswered a must identity reason
        else (s.setStation a e).probeAgain a) := by
  split
  · obtain ⟨e', leaves, change⟩ := (s.setStation a e).hailAnswered_leaves a must identity reason
    rw [State.station_setStation_self] at leaves
    exact ⟨e', leaves, change.of_setStation⟩
  · refine ⟨_, .probedAgain (DueTime.ahead s.clock s.engine.params.probeInterval), ?_, by simp⟩
    simp [State.probeAgain, State.withStation]

/-- R17: what an outcome can do, once for all states of the entry. -/
theorem State.applyOutcome_leaves (s : State) (a : Addr) (d : Delivery)
    (nodup : (s.requests.map fun r => r.tag).Nodup) :
    s.OutcomeLeaves a d ((s.station a).count s.clock d) (s.applyOutcome a d) := by
  have counted : ((s.station a).count s.clock d).state = (s.station a).state := by simp
  have start : s.withStation a (Station.count s.clock d) = s.setStation a ((s.station a).count s.clock d) := rfl
  by_cases known : (s.station a).state = .online ∨ (s.station a).state = .suspect
  · by_cases kind : d.record.kind = .hail
    · refine .counted (.inr (.inr (.inr ⟨by rwa [counted], kind⟩))) ⟨?_, ?_⟩ <;>
        rcases known with h | h <;> simp [State.applyOutcome, start, h, kind]
    · cases miss : d.outcome.isMiss with
      | true =>
        rw [State.applyOutcome_miss known kind miss]
        by_cases below : ((s.station a).count s.clock d).countMiss < ((s.station a).count s.clock d).missLimit
        · rw [State.missed_of_lt (by simpa using below)]
          exact .missed (by rwa [counted]) kind below ⟨by simp, by simp⟩
        · rw [State.missed_of_ge (by simpa using below), State.enterLost_eq (by simpa using nodup)]
          refine .becameLost (by rwa [counted]) kind
            (DueTime.ahead s.clock s.engine.params.probeInterval) ⟨?_, rfl⟩
          simp [Station.lostEntry]
      | false =>
        rw [State.applyOutcome_answer known kind miss]
        have known' : ((s.station a).count s.clock d).state = .online ∨
          ((s.station a).count s.clock d).state = .suspect := by rwa [counted]
        split
        · next imaged =>
          unfold State.handleImage
          rw [State.station_setStation_self, Station.answered_imageLength]
          split
          · next same =>
            rcases State.storeImage_becomes _ a d.data with change | change <;>
              rw [State.station_setStation_self] at change
            · exact .answered known' kind (.stored imaged.1 imaged.2 same) change.of_setStation
            · exact .answered known' kind (.reported imaged.1 imaged.2 same) change.of_setStation
          · exact .answered known' kind .plain ⟨rfl, rfl⟩
        · exact .answered known' kind .plain ⟨rfl, rfl⟩
  · cases hs : (s.station a).state with
    | online => exact absurd (.inl hs) known
    | suspect => exact absurd (.inr hs) known
    | vacant =>
      refine .counted (.inl (by rw [counted, hs])) ⟨?_, ?_⟩ <;> simp [State.applyOutcome, start, hs]
    | parked =>
      refine .counted (.inr (.inl (by rw [counted, hs]))) ⟨?_, ?_⟩ <;> simp [State.applyOutcome, start, hs]
    | probing =>
      by_cases kind : d.record.kind = .hail
      · rw [State.applyOutcome_probing hs kind]
        obtain ⟨e', leaves, change⟩ := s.hail_leaves a ((s.station a).count s.clock d) (d.outcome = .good) _ _ _
        exact .hailed (.inl (by rw [counted, hs])) kind leaves change
      · refine .counted (.inr (.inr (.inl ⟨by rw [counted, hs], kind⟩))) ⟨?_, ?_⟩ <;>
          simp [State.applyOutcome, start, hs, kind]
    | lost =>
      by_cases kind : d.record.kind = .hail
      · rw [State.applyOutcome_lost hs kind]
        obtain ⟨e', leaves, change⟩ := s.hail_leaves a ((s.station a).count s.clock d) (d.outcome = .good) _ _ _
        exact .hailed (.inr (by rw [counted, hs])) kind leaves change
      · have applied : s.applyOutcome a d =
            (s.setStation a ((s.station a).count s.clock d)).removeWaiting a .stationLost := by
          simp [State.applyOutcome, start, hs, kind]
        rw [applied, State.removeWaiting_eq (by simpa using nodup)]
        exact .alreadyLost (by rw [counted, hs]) kind ⟨rfl, rfl⟩

end Sys2Proof.Machine
end

section
/-!
SUPPORT. What an outcome keeps at its station, and the fate of the request served.
-/

namespace Sys2Proof.Machine

/-! ### What an outcome keeps -/

theorem Station.HailLeaves.fits {e e' : Station} (h : e.HailLeaves e') (ok : e.fits) (enrolled : e.state ≠ .vacant) :
    e'.fits := by
  cases h with
  | found now identity => exact ok.found enrolled now identity
  | mismatched identity => exact ok.mismatched enrolled identity
  | probedAgain due => exact ok.withDue enrolled _

theorem Station.HailLeaves.dueRight {e e' : Station} (h : e.HailLeaves e')
    (at_ : e.state = .probing ∨ e.state = .lost) : e'.dueRight := by
  cases h with
  | found now identity =>
    by_cases level : 1 ≤ e.level <;> simp [Station.dueRight, Station.dueCall?, Station.found, level]
  | mismatched identity => simp [Station.dueRight, Station.dueCall?, Station.mismatched]
  | probedAgain due => rcases at_ with at_ | at_ <;> simp [Station.dueRight, Station.dueCall?, at_]

/-- A station found or returned serves requests; before that it had none waiting. -/
theorem Station.AnswerLeaves.online {now : Clock} {d : Delivery} {e e' : Station} (h : e.AnswerLeaves now d e') :
    e'.state = .online := by
  obtain ⟨_, _, shape, -⟩ := e.answered_shape now d.record.origin
  cases h <;> simp [shape]

theorem Station.AnswerLeaves.fits {now : Clock} {d : Delivery} {e e' : Station} (h : e.AnswerLeaves now d e')
    (ok : e.fits) (at_ : e.state = .online ∨ e.state = .suspect)
    (imaged : d.record.kind = .poll → d.outcome = .good → ∀ n ∈ d.record.imageLength, d.data.length = n) :
    e'.fits := by
  obtain ⟨due, overruns, shape, -⟩ := e.answered_shape now d.record.origin
  have answered : (e.answered now d.record.origin).fits := by rw [shape]; exact ok.online at_ due overruns
  have enrolled : (e.answered now d.record.origin).state ≠ .vacant := by rw [shape]; simp
  cases h with
  | plain => exact answered
  | stored poll good length =>
    exact (answered.withImage enrolled (by simpa using imaged poll good _ length)).1
  | reported poll good length =>
    exact (answered.withImage enrolled (by simpa using imaged poll good _ length)).2

/-- R55: next due of an entry whose state calls for a call, that call being on the line or not. -/
def Station.dueBeside (origin : Origin) (e : Station) : Prop :=
  e.nextDue.isSome = true ↔ ∃ c, e.dueCall? = some c ∧ c.fitsOrigin origin = false

theorem Station.AnswerLeaves.dueRight {now : Clock} {d : Delivery} {e e' : Station} (h : e.AnswerLeaves now d e')
    (at_ : e.state = .online ∨ e.state = .suspect) (due : e.dueBeside d.record.origin)
    (state : d.record.origin.fitsState d.record.kind e.state = true) : e'.dueRight := by
  have answered : (e.answered now d.record.origin).dueRight := by
    obtain ⟨next, overruns, shape, poll, kept, request⟩ := e.answered_shape now d.record.origin
    rw [shape]
    have calls : ({ e with state := .online, missCount := 0, nextDue := next, pollOverruns := overruns } :
        Station).dueCall?.isSome = decide (1 ≤ e.level) := by
      by_cases level : 1 ≤ e.level <;> simp [Station.dueCall?, level]
    show next.isSome = _
    rw [calls]
    cases origin : d.record.origin with
    | poll anchor => exact poll (by rw [origin]; rfl)
    | recoveryPoll anchor => exact poll (by rw [origin]; rfl)
    | probe anchor => rcases at_ with at_ | at_ <;> simp [origin, at_, Origin.fitsState] at state
    | fallback => simp [origin, Origin.fitsState] at state
    | request tag =>
      rw [Station.dueBeside, origin] at due
      rcases at_ with at_ | at_
      · rw [kept (by rw [origin]; rfl) (.inl at_), Bool.eq_iff_iff, due]
        by_cases level : 1 ≤ e.level <;>
          simp [Station.dueCall?, at_, level, DueCall.fitsOrigin, Origin.isCyclicPoll]
      · rw [request (by rw [origin]; rfl) at_]
        by_cases level : 1 ≤ e.level
        · rw [if_pos level, Bool.eq_iff_iff, due]
          simp [Station.dueCall?, at_, level, DueCall.fitsOrigin, Origin.isRecoveryPoll]
        · simp [level]
  cases h with
  | plain => exact answered
  | stored => exact answered
  | reported => exact answered

/-- A committed call is for an enrolled station. -/
theorem Origin.enrolled_of_fitsState {origin : Origin} {kind : CallKind} {state : StationState}
    (h : origin.fitsState kind state = true) : state ≠ .vacant ∧ state ≠ .parked := by
  constructor <;> rintro rfl <;> cases origin <;> simp [Origin.fitsState] at h

/-- A probe calls a PROBING or LOST station with HAIL, every other call one that is not PROBING with another kind. -/
theorem Origin.fitsState_hail {origin : Origin} {kind : CallKind} {state : StationState}
    (h : origin.fitsState kind state = true) :
    kind = .hail ∧ (state = .probing ∨ state = .lost) ∧ origin.isProbe = true ∨
      kind ≠ .hail ∧ state ≠ .probing ∧ origin.isProbe = false := by
  cases origin <;> simp [Origin.fitsState] at h
  case poll => simp [h, Origin.isProbe]
  case recoveryPoll => rcases h with ⟨rfl, rfl | rfl⟩ <;> simp [Origin.isProbe]
  case probe => simp [h, Origin.isProbe]
  case request => rcases h with ⟨rfl | rfl, (rfl | rfl) | rfl⟩ <;> simp [Origin.isProbe]

/-- R22: a call committed at a SUSPECT station goes on when it becomes LOST. -/
theorem Origin.fitsState_lost {origin : Origin} {kind : CallKind} (h : origin.fitsState kind .suspect = true) :
    origin.fitsState kind .lost = true := by
  revert h
  cases origin <;> simp [Origin.fitsState]

theorem LineEngine.serving_iff {g : LineEngine} {origin : Origin → Bool} {a : Addr} :
    g.serving origin a = true ↔ ∃ x, g.exchange = some x ∧ x.record.station = some a ∧
      origin x.record.origin = true ∧ x.record.orphaned = false := by
  unfold LineEngine.serving
  cases g.exchange <;> simp [and_assoc]

section Outcome

variable {s t : State} {a : Addr} {d : Delivery} {e : Station}

theorem State.OutcomeLeaves.stationsOk (h : s.OutcomeLeaves a d e t) (ok : StationsOk s) (fits : e.fits)
    (enrolled : e.state ≠ .vacant)
    (imaged : d.record.kind = .poll → d.outcome = .good → ∀ n ∈ d.record.imageLength, d.data.length = n) :
    StationsOk t := by
  cases h with
  | counted at_ change => exact (ok.setStation fits).of_stations change.stations
  | alreadyLost at_ kind change => exact (ok.setStation fits).of_stations change.stations
  | hailed at_ kind leaves change =>
    exact (ok.setStation (leaves.fits fits enrolled)).of_stations change.stations
  | missed at_ kind below change =>
    exact (ok.setStation (fits.suspect at_ below _)).of_stations change.stations
  | becameLost at_ kind due change =>
    exact (ok.setStation (fits.lostEntry at_ due)).of_stations change.stations
  | answered at_ kind leaves change =>
    exact (ok.setStation (leaves.fits fits at_ imaged)).of_stations change.stations

/-- The other entries stay; the entry itself is left with its next due where its state calls for one. -/
theorem State.OutcomeLeaves.dueRight (h : s.OutcomeLeaves a d e t) (due : e.dueBeside d.record.origin)
    (state : d.record.origin.fitsState d.record.kind e.state = true)
    (others : ∀ b, b ≠ a → (s.station b).dueRight) (b : Addr) : (t.station b).dueRight := by
  have settle : ∀ e' : Station, t.stations = (s.setStation a e').stations → e'.dueRight →
      (t.station b).dueRight := by
    intro e' stations right
    rw [State.station_of_stations stations, State.station_setStation]
    split
    · exact right
    · next other => exact others b other
  have hail := Origin.fitsState_hail state
  cases h with
  | counted at_ change =>
    obtain ⟨enrolled, listed⟩ := Origin.enrolled_of_fitsState state
    rcases at_ with at_ | at_ | ⟨at_, kind⟩ | ⟨at_, kind⟩
    · exact absurd at_ enrolled
    · exact absurd at_ listed
    · rcases hail with ⟨isHail, -⟩ | ⟨-, other, -⟩
      · exact absurd isHail kind
      · exact absurd at_ other
    · rcases hail with ⟨-, at', -⟩ | ⟨other, -⟩
      · rcases at_ with at_ | at_ <;> simp [at_] at at'
      · exact absurd kind other
  | alreadyLost at_ kind change =>
    refine settle _ change.stations ?_
    have probe : d.record.origin.isProbe = false := by
      rcases hail with ⟨isHail, -⟩ | ⟨-, -, probe⟩
      · exact absurd isHail kind
      · exact probe
    rw [Station.dueRight, Bool.eq_iff_iff, show _ ↔ _ from due]
    simp [Station.dueCall?, at_, DueCall.fitsOrigin, probe]
  | hailed at_ kind leaves change => exact settle _ change.stations (leaves.dueRight at_)
  | missed at_ kind below change => exact settle _ change.stations (by simp [Station.dueRight, Station.dueCall?])
  | becameLost at_ kind next change =>
    exact settle _ change.stations (by simp [Station.dueRight, Station.dueCall?, Station.lostEntry])
  | answered at_ kind leaves change => exact settle _ change.stations (leaves.dueRight at_ due state)

theorem Request.removedFor_kind (a : Addr) (r : Request) :
    (r.removedFor a).kind = r.kind ∧ (r.removedFor a).station = r.station ∧
      ((r.removedFor a).state = .waiting → r.state = .waiting ∧ r.station ≠ some a) := by
  unfold Request.removedFor
  split
  · simp
  · next h => exact ⟨rfl, rfl, fun waiting => ⟨waiting, fun station => h ⟨waiting, station⟩⟩⟩

/-- R36: after an outcome requests wait only for stations that serve. -/
theorem State.OutcomeLeaves.waits (h : s.OutcomeLeaves a d e t) (same : (s.station a).state = e.state)
    (waits : ∀ r ∈ s.requests, r.state = .waiting → ∀ b ∈ r.station, (s.station b).state.serves = true ∨
      b = a ∧ (s.station a).state = .lost ∧ d.record.kind ≠ .hail) :
    ∀ r ∈ t.requests, r.state = .waiting → ∀ b ∈ r.station, (t.station b).state.serves = true := by
  -- the entry keeps its requests where it serves, or where its state had none
  have keeps : ∀ e', s.EntryBecomes a e' t →
      (e'.state.serves = true ∨ e.state.serves = false ∧ ¬ (e.state = .lost ∧ d.record.kind ≠ .hail)) →
      ∀ r ∈ t.requests, r.state = .waiting → ∀ b ∈ r.station, (t.station b).state.serves = true := by
    intro e' change serves r hr waiting b hb
    rw [change.requests] at hr
    rw [State.station_of_stations change.stations, State.station_setStation]
    have before := waits r hr waiting b hb
    split
    · next here =>
      subst here
      rw [same] at before
      rcases serves with serves | ⟨none, kind⟩
      · exact serves
      · rcases before with before | ⟨-, before⟩
        · rw [none] at before; cases before
        · exact absurd before kind
    · next other =>
      rcases before with before | ⟨here, -⟩
      · exact before
      · exact absurd here other
  have drops : ∀ e', s.EntryDrops a e' t →
      ∀ r ∈ t.requests, r.state = .waiting → ∀ b ∈ r.station, (t.station b).state.serves = true := by
    intro e' change r hr waiting b hb
    rw [change.requests] at hr
    obtain ⟨q, hq, rfl⟩ := List.mem_map.1 hr
    obtain ⟨-, station, was⟩ := q.removedFor_kind a
    rw [station] at hb
    obtain ⟨waited, elsewhere⟩ := was waiting
    have other : b ≠ a := by rintro rfl; exact elsewhere hb
    rw [State.station_of_stations change.stations, State.station_setStation, if_neg other]
    rcases waits q hq waited b hb with before | ⟨here, -⟩
    · exact before
    · exact absurd here other
  cases h with
  | counted at_ change =>
    refine keeps e change ?_
    rcases at_ with at_ | at_ | ⟨at_, -⟩ | ⟨at_ | at_, -⟩ <;> simp [at_, StationState.serves]
  | alreadyLost at_ kind change => exact drops _ change
  | hailed at_ kind leaves change =>
    refine keeps _ change (.inr ?_)
    rcases at_ with at_ | at_ <;> simp [at_, kind, StationState.serves]
  | missed at_ kind below change => exact keeps _ change (.inl rfl)
  | becameLost at_ kind due change => exact drops _ change
  | answered at_ kind leaves change => exact keeps _ change (.inl (by rw [leaves.online]; rfl))

theorem State.OutcomeLeaves.kinds (h : s.OutcomeLeaves a d e t)
    (kinds : ∀ r ∈ s.requests, r.kind = .broadcast → r.station = none) :
    ∀ r ∈ t.requests, r.kind = .broadcast → r.station = none := by
  have keeps : ∀ e', s.EntryBecomes a e' t → ∀ r ∈ t.requests, r.kind = .broadcast → r.station = none := by
    intro e' change
    rw [change.requests]; exact kinds
  have drops : ∀ e', s.EntryDrops a e' t → ∀ r ∈ t.requests, r.kind = .broadcast → r.station = none := by
    intro e' change r hr kind
    rw [change.requests] at hr
    obtain ⟨q, hq, rfl⟩ := List.mem_map.1 hr
    obtain ⟨same, station, -⟩ := q.removedFor_kind a
    rw [station]
    exact kinds q hq (by rwa [same] at kind)
  cases h with
  | counted at_ change => exact keeps _ change
  | alreadyLost at_ kind change => exact drops _ change
  | hailed at_ kind leaves change => exact keeps _ change
  | missed at_ kind below change => exact keeps _ change
  | becameLost at_ kind due change => exact drops _ change
  | answered at_ kind leaves change => exact keeps _ change

end Outcome

/-! ### The fate of the request served (R40 to R44) -/

/-- R44: the request of an orphan does not return to WAITING. -/
theorem Request.fate_orphan (now : Clock) {outcome : ExOutcome} (r : Request)
    (collision : ∀ detail, outcome ≠ .collision detail) : r.fate now true outcome ≠ none := by
  cases outcome with
  | collision detail => exact absurd rfl (collision detail)
  | _ => simp [Request.fate, Request.missFate]

/-- R40: a request after an outcome: the attempt counted at the request served, and its state. -/
def Request.servedTo (tag : Half) (outcome : ExOutcome) (state : RequestState → RequestState) (q : Request) :
    Request :=
  if q.tag = tag then { q.attempted outcome with state := state q.state } else q

theorem Request.servedTo_keeps (tag : Half) (outcome : ExOutcome) (state : RequestState → RequestState)
    (q : Request) :
    (q.servedTo tag outcome state).tag = q.tag ∧ (q.servedTo tag outcome state).kind = q.kind ∧
      (q.servedTo tag outcome state).station = q.station := by
  unfold Request.servedTo
  split <;> exact ⟨rfl, rfl, rfl⟩

/-- The Call Queue counts the attempt and sets the state; no request of an orphan comes to wait. -/
theorem State.decideRequest_requests (s : State) (tag : Half) (d : Delivery)
    (collision : ∀ detail, d.outcome ≠ .collision detail) :
    ∃ state : RequestState → RequestState,
      (s.decideRequest tag d).requests = s.requests.map (Request.servedTo tag d.outcome state) ∧
        ∀ old, state old = .waiting → old = .waiting ∨ d.record.orphaned = false := by
  have same : s.requests.map (Request.servedTo tag d.outcome id) =
      (s.updateRequest tag (Request.attempted d.outcome)).requests := rfl
  cases found : s.findRequest tag with
  | none =>
    have absent : (s.updateRequest tag (Request.attempted d.outcome)).findRequest tag = none := by
      rw [State.findRequest_updateRequest (by intro; rfl), found]; rfl
    exact ⟨id, by rw [same, State.decideRequest]; simp only [absent], fun old waiting => .inl waiting⟩
  | some r =>
    have holds := State.findRequest_tag found
    subst holds
    rw [State.decideRequest_eq d found]
    cases fate : (r.attempted d.outcome).fate s.clock d.record.orphaned d.outcome with
    | none =>
      refine ⟨fun _ => .waiting, rfl, fun _ _ => .inr ?_⟩
      cases orphaned : d.record.orphaned with
      | false => rfl
      | true => rw [orphaned] at fate; exact absurd fate (Request.fate_orphan s.clock _ collision)
    | some result =>
      have found' : (s.updateRequest r.tag (Request.attempted d.outcome)).findRequest r.tag =
          some (r.attempted d.outcome) := by
        rw [State.findRequest_updateRequest (by intro; rfl), found]; rfl
      refine ⟨fun _ => .reported, ?_, fun _ reported => by cases reported⟩
      dsimp only
      rw [State.completeRequest_eq found']
      simp only [State.updateRequest, State.withRequests, List.map_map]
      apply List.map_congr_left
      intro q _
      by_cases h : q.tag = r.tag <;> simp [Request.servedTo, h, Request.attempted]

end Sys2Proof.Machine
end

section
/-!
SUPPORT. The completion of an exchange: the delivery of its outcome.
-/

namespace Sys2Proof.Machine

/-! ### The completion of an exchange (R106, R107) -/

/-- A call on the line for a station, not orphaned: the entry's next due beside it. -/
theorem Timed.dueBeside {s : State} (h : Timed s) {x : Exchange} (on : s.engine.exchange = some x) {a : Addr}
    (station : x.record.station = some a) (live : x.record.orphaned = false) :
    (s.station a).dueBeside x.record.origin := by
  have serving : ∀ origin, s.engine.serving origin a = origin x.record.origin := by
    intro origin
    simp [LineEngine.serving, on, station, live]
  have := (Station.dueFits_iff _ _ _).1 (h.1 a)
  simp only [serving] at this
  exact this

theorem Timed.fitsState {s : State} (h : Timed s) {x : Exchange} (on : s.engine.exchange = some x) {a : Addr}
    (station : x.record.station = some a) (live : x.record.orphaned = false) :
    x.record.origin.fitsState x.record.kind (s.station a).state = true := h.2 x on a station live

/-- An entry the exchange in progress does not concern. -/
theorem Timed.dueRight_of_on {s : State} (h : Timed s) {x : Exchange} (on : s.engine.exchange = some x) {b : Addr}
    (other : x.record.station = some b → x.record.orphaned = true) : (s.station b).dueRight :=
  h.dueRight fun y hy named => by
    rw [on] at hy; cases hy
    exact other named

@[simp] theorem Station.count_nextDue (now : Clock) (d : Delivery) (e : Station) :
    (e.count now d).nextDue = e.nextDue := by
  obtain ⟨_, _, _, _, _, shape⟩ := e.count_shape now d
  rw [shape]

@[simp] theorem Station.count_dueCall? (now : Clock) (d : Delivery) (e : Station) :
    (e.count now d).dueCall? = e.dueCall? := by
  obtain ⟨_, _, _, _, _, shape⟩ := e.count_shape now d
  rw [shape]; rfl

/-- R107: the Call Queue's part of a delivery. -/
def State.queueDecides (d : Delivery) (s : State) : State :=
  match d.record.origin with
  | .request tag => s.decideRequest tag d
  | .poll _ | .recoveryPoll _ | .probe _ | .fallback => s

/-- R14, R107: a broadcast and an orphan end at the Call Queue. -/
theorem State.dispatch_of_silent {d : Delivery} (s : State)
    (h : ∀ b, d.record.station = some b → d.record.orphaned = true) : s.dispatch d = s.queueDecides d := by
  unfold State.dispatch State.queueDecides
  cases station : d.record.station with
  | none => cases d.record.origin <;> rfl
  | some a => cases d.record.origin <;> simp [h a station]

/-- R107: then the Station Table applies the outcome. -/
theorem State.dispatch_of_live {d : Delivery} {a : Addr} (s : State) (station : d.record.station = some a)
    (live : d.record.orphaned = false) : s.dispatch d = (s.queueDecides d).applyOutcome a d := by
  unfold State.dispatch State.queueDecides
  cases d.record.origin <;> simp [station, live]

/-- Only a request of this exchange can come to wait by what the Call Queue decides. -/
theorem Ongoing.queueDecides {s : State} (h : Ongoing s) {x : Exchange} (on : s.engine.exchange = some x)
    (f : LineEngine → LineEngine) {d : Delivery} (record : d.record = x.record)
    (collision : ∀ detail, d.outcome ≠ .collision detail) :
    ((s.withEngine f).queueDecides d).stations = s.stations ∧
      (((s.withEngine f).queueDecides d).requests.map fun r => r.tag).Nodup ∧
      (∀ r ∈ ((s.withEngine f).queueDecides d).requests, r.kind = .broadcast → r.station = none) ∧
      ∀ r ∈ ((s.withEngine f).queueDecides d).requests, r.state = .waiting → ∀ b ∈ r.station,
        (s.station b).state.serves = true ∨
          x.record.station = some b ∧ x.record.orphaned = false ∧ x.record.origin.isRequest = true := by
  by_cases isRequest : ∃ tag, d.record.origin = .request tag
  · obtain ⟨tag, origin⟩ := isRequest
    have decides : (s.withEngine f).queueDecides d = (s.withEngine f).decideRequest tag d := by
      simp [State.queueDecides, origin]
    rw [decides]
    obtain ⟨state, requests, waits⟩ := (s.withEngine f).decideRequest_requests tag d collision
    rw [State.withEngine_requests] at requests
    have keeps := Request.servedTo_keeps tag d.outcome state
    refine ⟨by simp, ?_, fun r hr kind => ?_, fun r hr waiting b hb => ?_⟩
    · have tags : (fun r : Request => r.tag) ∘ Request.servedTo tag d.outcome state = fun r => r.tag := by
        funext q; exact (keeps q).1
      rw [requests, List.map_map, tags]
      exact h.nodup
    · rw [requests] at hr
      obtain ⟨q, hq, rfl⟩ := List.mem_map.1 hr
      rw [(keeps q).2.2]
      exact h.kinds q hq (by rwa [(keeps q).2.1] at kind)
    · rw [requests] at hr
      obtain ⟨q, hq, rfl⟩ := List.mem_map.1 hr
      rw [(keeps q).2.2] at hb
      have isRequest : x.record.origin.isRequest = true := by rw [← record, origin]; rfl
      by_cases own : q.tag = tag
      · simp only [Request.servedTo, own, if_true] at waiting
        rcases waits _ waiting with old | live
        · exact .inl (h.waits q hq old b hb)
        · obtain ⟨r, hr, tags, station⟩ := h.served x on tag (by rw [← record, origin])
          have same : r = q := List.inj_on_of_nodup_map h.nodup hr hq (by rw [tags, own])
          subst same
          exact .inr ⟨station.trans hb, by rw [← record]; exact live, isRequest⟩
      · simp only [Request.servedTo, own, if_false] at waiting
        exact .inl (h.waits q hq waiting b hb)
  · have untouched : (s.withEngine f).queueDecides d = s.withEngine f := by
      unfold State.queueDecides
      cases origin : d.record.origin with
      | request tag => exact absurd ⟨tag, origin⟩ isRequest
      | _ => rfl
    rw [untouched]
    exact ⟨rfl, h.nodup, h.kinds, fun r hr waiting b hb => .inl (h.waits r hr waiting b hb)⟩

/-- R36, R38: a request on the line is a PUT or a GET at a station that serves, or has become LOST meanwhile. -/
theorem Origin.fitsState_request {origin : Origin} {kind : CallKind} {state : StationState}
    (request : origin.isRequest = true) (h : origin.fitsState kind state = true) :
    kind ≠ .hail ∧ (state.serves = true ∨ state = .lost) := by
  cases origin <;> simp [Origin.isRequest] at request
  simp [Origin.fitsState] at h
  rcases h with ⟨rfl | rfl, (rfl | rfl) | rfl⟩ <;> simp [StationState.serves]

/-- R107: the state after a delivery is one a selection can start from. -/
theorem Ongoing.dispatch {s : State} (h : Ongoing s) {x : Exchange} (on : s.engine.exchange = some x)
    {f : LineEngine → LineEngine} (done : (f s.engine).exchange = none) {d : Delivery} (record : d.record = x.record)
    (collision : ∀ detail, d.outcome ≠ .collision detail)
    (imaged : d.record.kind = .poll → d.outcome = .good → ∀ n ∈ d.record.imageLength, d.data.length = n) :
    Scheduled ((s.withEngine f).dispatch d) ∧ ∀ a, (((s.withEngine f).dispatch d).station a).dueRight := by
  suffices parts : StationsOk ((s.withEngine f).dispatch d) ∧
      (∀ a, (((s.withEngine f).dispatch d).station a).dueRight) ∧
      (∀ r ∈ ((s.withEngine f).dispatch d).requests, r.kind = .broadcast → r.station = none) ∧
      ∀ r ∈ ((s.withEngine f).dispatch d).requests, r.state = .waiting → ∀ b ∈ r.station,
        (((s.withEngine f).dispatch d).station b).state.serves = true by
    obtain ⟨stations, right, kinds, waits⟩ := parts
    have idle : ((s.withEngine f).dispatch d).engine.exchange = none := by simpa using done
    exact ⟨⟨stations, (timed_of_idle idle).2 right, kinds, waits⟩, right⟩
  obtain ⟨stations, nodup, kinds, waits⟩ := h.queueDecides on f record collision
  have ok : StationsOk ((s.withEngine f).queueDecides d) := h.stations.of_stations stations
  have station : ∀ b, ((s.withEngine f).queueDecides d).station b = s.station b := State.station_of_stations stations
  by_cases heard : ∃ a, x.record.station = some a ∧ x.record.orphaned = false
  · obtain ⟨a, named, live⟩ := heard
    rw [State.dispatch_of_live (a := a) _ (by rw [record, named]) (by rw [record, live])]
    have state := h.timed.fitsState on named live
    have leaves := State.applyOutcome_leaves _ a d nodup
    rw [station] at leaves
    have enrolled := (Origin.enrolled_of_fitsState state).1
    refine ⟨leaves.stationsOk ok ((h.stations a).count enrolled _ _) (by simpa using enrolled) imaged,
      leaves.dueRight ?_ (by simpa [record] using state) fun b other => ?_, leaves.kinds kinds,
      leaves.waits (by simp [station]) fun r hr waiting b hb => ?_⟩
    · simpa [Station.dueBeside, record] using h.timed.dueBeside on named live
    · rw [station]
      exact h.timed.dueRight_of_on on fun here => absurd (Option.some.inj (named.symm.trans here)).symm other
    · rw [station, station]
      rcases waits r hr waiting b hb with serves | ⟨here, -, request⟩
      · exact .inl serves
      · have same : b = a := Option.some.inj (here.symm.trans named)
        subst same
        obtain ⟨kind, serves | lost⟩ := Origin.fitsState_request request state
        · exact .inl serves
        · exact .inr ⟨rfl, lost, by rwa [record]⟩
  · have silent : ∀ b, x.record.station = some b → x.record.orphaned = true := fun b named => by
      by_contra live
      exact heard ⟨b, named, by simpa using live⟩
    rw [State.dispatch_of_silent _ (by rwa [record])]
    refine ⟨ok, fun b => ?_, kinds, fun r hr waiting b hb => ?_⟩
    · rw [station]; exact h.timed.dueRight_of_on on (silent b)
    · rw [station]
      rcases waits r hr waiting b hb with serves | ⟨named, live, -⟩
      · exact serves
      · rw [silent b named] at live; cases live

end Sys2Proof.Machine
end

section
/-!
SUPPORT. The end of an exchange: completion, undone commitments and contention.
-/

namespace Sys2Proof.Machine

/-- R189: where the silence timer runs. -/
theorem Fallback.runs_of_fits {g : LineEngine} {f : Fallback} (h : f.fits g = true)
    (running : f.timer.isSome = true) : f.armed = true ∧ g.role = .master ∧ f.pending = false := by
  obtain ⟨start, timer⟩ := Option.isSome_iff_exists.1 running
  simp only [Fallback.fits, timer, Option.isNone_some, Bool.false_or, Bool.and_eq_true, beq_iff_eq,
    Bool.not_eq_true', and_assoc] at h
  exact ⟨h.1, h.2.1, h.2.2.1⟩

/-- R187: what the fallback can be while an exchange is in progress. -/
theorem Ongoing.fallback_on {s : State} (h : Ongoing s) {x : Exchange} (on : s.engine.exchange = some x) :
    (s.fallback.timer.isSome = true →
      s.fallback.armed = true ∧ s.engine.role = .master ∧ s.fallback.pending = false) ∧
    (s.fallback.pending = true → s.engine.role = .master) ∧
    (s.fallback.pending = false → x.record.origin ≠ .fallback → s.fallback.phase = .none) := by
  refine ⟨Fallback.runs_of_fits h.fallback, ?_, ?_⟩ <;> have fits := h.fallback <;>
    unfold Fallback.fits LineEngine.onFallback at fits <;> rw [on] at fits
  · cases pending : s.fallback.pending <;> simp_all
  · cases phase : s.fallback.phase <;> simp_all

/-- R106: the role in which an exchange can be in progress. -/
theorem Ongoing.role_on {s : State} (h : Ongoing s) {x : Exchange} (on : s.engine.exchange = some x) :
    s.engine.role = .master ∨ s.engine.role = .stopping := by
  have fits := h.role
  rw [on] at fits
  cases role : s.engine.role <;> simp [role, LineRole.fitsExchange] at fits ⊢

/-- R106, R107, R120, R190, R192: the completion of an exchange keeps the stations, the timetable and the line. -/
theorem Ongoing.completeExchange_kept {s : State} (h : Ongoing s) {x : Exchange} (on : s.engine.exchange = some x)
    {outcome : ExOutcome} {data : List Byte} (collision : ∀ detail, outcome ≠ .collision detail)
    (imaged : x.record.kind = .poll → outcome = .good → ∀ n ∈ x.record.imageLength, data.length = n) :
    Kept (s.completeExchange outcome data) := by
  have eq : s.completeExchange outcome data = State.afterCompletion x.record
      ((s.withEngine fun g => { g with
        exchange := none, lde := false, counters := g.counters.completed outcome }).dispatch
          ⟨x.record, outcome, data⟩) := by
    simp only [State.completeExchange, on]
  rw [eq]
  obtain ⟨scheduled, right⟩ := h.dispatch on
    (f := fun g => { g with exchange := none, lde := false, counters := g.counters.completed outcome })
    rfl (d := ⟨x.record, outcome, data⟩) rfl collision imaged
  generalize hu : (s.withEngine fun g => { g with
        exchange := none, lde := false, counters := g.counters.completed outcome }).dispatch
          ⟨x.record, outcome, data⟩ = u at scheduled right
  have engine : u.engine =
      { s.engine with exchange := none, lde := false, counters := s.engine.counters.completed outcome } := by
    rw [← hu]; simp
  have fallback : u.fallback = s.fallback := by rw [← hu]; simp
  have role : u.engine.role = s.engine.role := by rw [engine]
  have idle : Idle u := ⟨scheduled.stations, right, by rw [engine], by rw [engine], by rw [engine]; exact h.framer⟩
  obtain ⟨timer, -, phase⟩ := h.fallback_on on
  unfold State.afterCompletion
  rcases h.role_on on with master | stopping
  · rw [role, master]
    dsimp only
    split
    · exact idle.endFallback_kept _
    · next origin =>
      split
      · next pending =>
        rw [fallback] at pending
        refine idle.advanceFallback_kept (by rw [role, master]) ?_ (by rw [fallback, pending])
        rw [fallback]
        cases running : s.fallback.timer with
        | none => rfl
        | some start => have := (timer (by rw [running]; rfl)).2.2; rw [pending] at this; cases this
      · next pending =>
        have pending : s.fallback.pending = false := by rw [fallback] at pending; simpa using pending
        refine scheduled.select_kept ((lined_of_idle idle.exchange).2 ⟨?_, idle.lde, idle.framer, ?_⟩)
        · rw [role, master]; simp
        · rw [fallback, role]
          exact ⟨fun running => ⟨(timer running).1, master⟩, pending, phase pending origin⟩
  · rw [role, stopping]
    dsimp only
    split
    · exact idle.endFallback_kept _
    · exact (idle.leaveMaster_kept (by simp)).putReport _

/-! ### Undone commitments and contention (R69, R108, R109, R124) -/

theorem Station.restoreAnchor_shape (origin : Origin) (e : Station) :
    ∃ due, e.restoreAnchor origin = { e with nextDue := due } := by
  unfold Station.restoreAnchor
  split
  · split
    · exact ⟨_, rfl⟩
    · exact ⟨_, rfl⟩
  all_goals exact ⟨_, rfl⟩

@[simp] theorem Station.restoreAnchor_request (tag : Half) (e : Station) : e.restoreAnchor (.request tag) = e := by
  cases h : e.state <;> simp [Station.restoreAnchor]

@[simp] theorem Station.restoreAnchor_fallback (e : Station) : e.restoreAnchor .fallback = e := by
  cases h : e.state <;> simp [Station.restoreAnchor]

/-- R69: an undone call is due again where the state of its station still calls for it. -/
theorem Station.restoreAnchor_dueRight {origin : Origin} {kind : CallKind} {e : Station}
    (due : e.dueBeside origin) (state : origin.fitsState kind e.state = true) :
    (e.restoreAnchor origin).dueRight := by
  have kept : (∀ c, e.dueCall? = some c → c.fitsOrigin origin = false) → e.dueRight := by
    intro free
    rw [Station.dueRight, Bool.eq_iff_iff, show _ ↔ _ from due, Option.isSome_iff_exists]
    exact ⟨fun ⟨c, calls, _⟩ => ⟨c, calls⟩, fun ⟨c, calls⟩ => ⟨c, calls, free c calls⟩⟩
  cases origin with
  | poll anchor =>
    have online : e.state = .online := by simp [Origin.fitsState] at state; exact state.2
    by_cases level : 1 ≤ e.level
    · simp [Station.restoreAnchor, online, level, Station.dueRight, Station.dueCall?]
    · have same : e.restoreAnchor (.poll anchor) = e := by simp [Station.restoreAnchor, online, level]
      rw [same]
      exact kept (by simp [Station.dueCall?, online, level])
  | recoveryPoll anchor =>
    have known : e.state = .suspect ∨ e.state = .lost := by simp [Origin.fitsState] at state; exact state.2
    rcases known with suspect | lost
    · simp [Station.restoreAnchor, suspect, Station.dueRight, Station.dueCall?]
    · have same : e.restoreAnchor (.recoveryPoll anchor) = e := by simp [Station.restoreAnchor, lost]
      rw [same]
      exact kept (by simp [Station.dueCall?, lost, DueCall.fitsOrigin, Origin.isProbe])
  | probe anchor =>
    have known : e.state = .probing ∨ e.state = .lost := by simp [Origin.fitsState] at state; exact state.2
    rcases known with probing | lost
    · simp [Station.restoreAnchor, probing, Station.dueRight, Station.dueCall?]
    · simp [Station.restoreAnchor, lost, Station.dueRight, Station.dueCall?]
  | request tag =>
    rw [Station.restoreAnchor_request]
    exact kept fun c _ => by cases c <;> rfl
  | fallback => simp [Origin.fitsState] at state

theorem State.undoDue_station (record : ExchangeRecord) (s : State) (b : Addr) :
    (s.undoDue record).station b =
      if record.station = some b ∧ record.orphaned = false then (s.station b).restoreAnchor record.origin
      else s.station b := by
  unfold State.undoDue
  cases station : record.station with
  | none => simp
  | some a =>
    cases orphaned : record.orphaned with
    | true => simp
    | false =>
      simp only [Bool.false_eq_true, if_false, State.station_withStation, Option.some.injEq, and_true]
      by_cases same : b = a
      · subst same; simp
      · rw [if_neg same, if_neg fun h => same h.symm]

/-- R69: the entries after an undone commitment: the anchor back in the one the call was for. -/
theorem State.undoCommitment_station (record : ExchangeRecord) (collision : Option ExOutcome) (s : State) (b : Addr) :
    (s.undoCommitment record collision).station b =
      if record.station = some b ∧ record.orphaned = false then (s.station b).restoreAnchor record.origin
      else s.station b := by
  unfold State.undoCommitment
  cases origin : record.origin <;> simp [State.undoDue_station, origin]

theorem Ongoing.undoCommitment {s : State} (h : Ongoing s) {x : Exchange} (on : s.engine.exchange = some x)
    (collision : Option ExOutcome) :
    StationsOk (s.undoCommitment x.record collision) ∧
      ∀ a, ((s.undoCommitment x.record collision).station a).dueRight := by
  refine ⟨fun a => ?_, fun a => ?_⟩ <;> rw [State.undoCommitment_station] <;> split
  · next concerned =>
    obtain ⟨due, shape⟩ := (s.station a).restoreAnchor_shape x.record.origin
    rw [shape]
    exact (h.stations a).withDue
      (Origin.enrolled_of_fitsState (h.timed.fitsState on concerned.1 concerned.2)).1 due
  · exact h.stations a
  · next concerned =>
    exact Station.restoreAnchor_dueRight (h.timed.dueBeside on concerned.1 concerned.2)
      (h.timed.fitsState on concerned.1 concerned.2)
  · next other =>
    exact h.timed.dueRight_of_on on fun named => by
      by_contra live
      exact other ⟨named, by simpa using live⟩

/-- R124, R125: a contention in MASTER or STOPPING, the Line Engine IDLE again. -/
theorem Idle.contentionRole_kept {s : State} (h : Idle s) (role : s.engine.role = .master ∨ s.engine.role = .stopping)
    (detail : CollisionDetail) : Kept (s.contentionRole detail) := by
  unfold State.contentionRole
  rcases role with role | role
  · rw [role]; exact (h.leaveMaster_kept (by simp)).putReport _
  · rw [role]; exact (h.leaveMaster_kept (by simp)).putReport _

theorem Idle.countContention {s : State} (h : Idle s) : Idle s.countContention :=
  ⟨h.stations.of_stations rfl, h.right, h.exchange, h.lde, h.framer⟩

theorem LineEngine.dropLine_framer {g : LineEngine} (h : g.framer.fits = true) : g.dropLine.framer.fits = true := by
  unfold LineEngine.dropLine
  split
  · rfl
  · exact h

/-- R108, R124, R125, R191: a collision keeps the stations, the timetable and the line. -/
theorem Ongoing.collide_kept {s : State} (h : Ongoing s) {x : Exchange} (on : s.engine.exchange = some x)
    (detail : CollisionDetail) : Kept (s.collide detail) := by
  have dropped : Ongoing (s.withEngine LineEngine.dropLine) :=
    h.withEngine (by simp) (by simp) (LineEngine.dropLine_framer h.framer)
  obtain ⟨stations, right⟩ := dropped.undoCommitment (x := x) (by simpa using on) (some (.collision detail))
  have idle : Idle ((s.withEngine LineEngine.dropLine).undoCommitment x.record (some (.collision detail))) :=
    ⟨stations, right, by simp, by simp, by simpa using LineEngine.dropLine_framer h.framer⟩
  unfold State.collide
  rw [on]
  dsimp only
  split
  · exact idle.countContention.endFallback_kept _
  · refine idle.countContention.contentionRole_kept ?_ detail
    simpa [State.countContention, State.withLineCounters_eq] using h.role_on on

end Sys2Proof.Machine
end

section
/-!
SUPPORT. The running device, and changes of one entry before a selection.
-/

namespace Sys2Proof.Machine

/-! ### The running device (R90, R94) -/

/-- A running device at an event, LDE and the framer standing as the exchange state wants them. -/
structure Running (s : State) : Prop extends Ongoing s where
  lines : s.engine.linesFit = true

/-- Outside reset the device is as an event finds it. -/
theorem DeviceOk.running {s : State} (h : DeviceOk s) (held : s.held = false) : Running s := by
  obtain ⟨stations, timetable, line, ⟨-, nodup, fits, -, onLine, -, waits, -⟩, -⟩ := h
  obtain ⟨role, lines, framer, fallback⟩ := line held
  refine ⟨⟨⟨stations, timetable held, fun r hr => ?_, waits⟩, held, role, framer, fallback, nodup, ?_⟩, lines⟩
  · obtain ⟨-, -, -, -, broadcast, -⟩ := fits r hr
    exact broadcast.1
  · intro x hx tag origin
    obtain ⟨r, hr, same, station⟩ := onLine x hx (by rw [origin]; rfl)
    rw [origin] at same
    cases same
    exact ⟨r, hr, rfl, station⟩

theorem Running.lined {s : State} (h : Running s) : Lined s := ⟨h.role, h.lines, h.framer, h.fallback⟩

theorem Running.kept {s : State} (h : Running s) : Kept s := .of_timed h.stations h.timed h.lined

/-- `Running` looks at the stations, the live set, the Line Engine, the fallback and the reset pins. -/
theorem Running.congr {s t : State} (h : Running s) (stations : t.stations = s.stations)
    (requests : t.requests = s.requests) (engine : t.engine = s.engine) (fallback : t.fallback = s.fallback)
    (held : t.held = s.held) : Running t where
  stations := h.stations.of_stations stations
  timed := h.timed.congr stations (by rw [engine])
  kinds := by rw [requests]; exact h.kinds
  waits := fun r hr => by
    simp only [State.station_of_stations stations]
    exact h.waits r (by rwa [requests] at hr)
  running := by rw [held]; exact h.running
  role := by rw [engine]; exact h.role
  framer := by rw [engine]; exact h.framer
  fallback := by rw [engine, fallback]; exact h.fallback
  nodup := by rw [requests]; exact h.nodup
  served := by rw [engine, requests]; exact h.served
  lines := by rw [engine]; exact h.lines

theorem Running.withEngine {s : State} (h : Running s) {f : LineEngine → LineEngine}
    (role : (f s.engine).role = s.engine.role) (exchange : (f s.engine).exchange = s.engine.exchange)
    (framer : (f s.engine).framer.fits = true) (lines : (f s.engine).linesFit = true) :
    Running (s.withEngine f) :=
  ⟨h.toOngoing.withEngine role exchange framer, lines⟩

theorem Running.withFallback {s : State} (h : Running s) {f : Fallback → Fallback}
    (fits : (f s.fallback).fits s.engine = true) : Running (s.withFallback f) where
  stations := h.stations.of_stations rfl
  timed := h.timed.congr rfl rfl
  kinds := h.kinds
  waits := h.waits
  running := h.running
  role := h.role
  framer := h.framer
  fallback := fits
  nodup := h.nodup
  served := h.served
  lines := h.lines

/-- R189: the silence timer runs in MASTER with the fallback armed and not pending. -/
theorem Fallback.fits_of_timer {g : LineEngine} {f f' : Fallback} (h : f.fits g = true)
    (pending : f'.pending = f.pending) (phase : f'.phase = f.phase)
    (runs : f'.timer.isSome = true → f'.armed = true ∧ g.role = .master ∧ f'.pending = false) :
    f'.fits g = true := by
  unfold Fallback.fits at h ⊢
  simp only [Bool.and_eq_true] at h ⊢
  rw [pending, phase]
  refine ⟨⟨?_, h.1.2⟩, h.2⟩
  cases timer : f'.timer with
  | none => rfl
  | some start => simpa [and_assoc, pending] using runs (by rw [timer]; rfl)

theorem Running.restartSilence {s : State} (h : Running s) : Running s.restartSilence := by
  unfold State.restartSilence
  split
  · next runs =>
    simp only [Bool.and_eq_true, beq_iff_eq, Bool.not_eq_true'] at runs
    exact h.withFallback (Fallback.fits_of_timer h.fallback rfl rfl fun _ => ⟨runs.1.1, runs.1.2, runs.2⟩)
  · exact h

theorem Running.goodFrame {s : State} (h : Running s) : Running s.goodFrame := by
  refine h.restartSilence.congr ?_ ?_ ?_ ?_ ?_ <;> simp [State.goodFrame, State.goodCrcNotice]

/-- With no exchange in progress the device is IDLE. -/
theorem Running.idle {s : State} (h : Running s) (none : s.engine.exchange = none) : Idle s where
  stations := h.stations
  right := (timed_of_idle none).1 h.timed
  exchange := none
  lde := ((lined_of_idle none).1 h.lined).2.1
  framer := h.framer

/-- R114: in OFF and YIELDED no exchange is in progress. -/
theorem Running.idle_of_role {s : State} (h : Running s) (role : s.engine.role = .off ∨ s.engine.role = .yielded) :
    Idle s := by
  refine h.idle ?_
  have fits := h.role
  cases on : s.engine.exchange with
  | none => rfl
  | some x => rcases role with role | role <;> simp [on, role, LineRole.fitsExchange] at fits

/-! ### Changes of one entry before a selection -/

theorem Scheduled.setEntry {s : State} (h : Scheduled s) {a : Addr} {e : Station} (fits : e.fits)
    (timed : Timed (s.setStation a e))
    (serves : (s.station a).state.serves = true → e.state.serves = true) : Scheduled (s.setStation a e) where
  stations := h.stations.setStation fits
  timed := timed
  kinds := h.kinds
  waits := fun r hr waiting b hb => by
    rw [State.station_setStation]
    split
    · next same => subst same; exact serves (h.waits r hr waiting b hb)
    · exact h.waits r hr waiting b hb

/-- A change of one entry with the removal of the requests waiting for it. -/
theorem Scheduled.dropEntry {s t : State} (h : Scheduled s) {a : Addr} {e : Station} (change : s.EntryDrops a e t)
    (fits : e.fits) (timed : Timed t) : Scheduled t where
  stations := (h.stations.setStation fits).of_stations change.stations
  timed := timed
  kinds := fun r hr kind => by
    rw [change.requests] at hr
    obtain ⟨q, hq, rfl⟩ := List.mem_map.1 hr
    obtain ⟨same, station, -⟩ := q.removedFor_kind a
    rw [station]
    exact h.kinds q hq (by rwa [same] at kind)
  waits := fun r hr waiting b hb => by
    rw [change.requests] at hr
    obtain ⟨q, hq, rfl⟩ := List.mem_map.1 hr
    obtain ⟨-, station, was⟩ := q.removedFor_kind a
    rw [station] at hb
    obtain ⟨waited, elsewhere⟩ := was waiting
    have other : b ≠ a := by rintro rfl; exact elsewhere hb
    rw [State.station_of_stations change.stations, State.station_setStation, if_neg other]
    exact h.waits q hq waited b hb

/-- A change of the live set that lets no further request wait. -/
theorem Scheduled.mapRequests {s t : State} (h : Scheduled s) {f : Request → Request}
    (stations : t.stations = s.stations) (engine : t.engine = s.engine) (requests : t.requests = s.requests.map f)
    (keeps : ∀ r, (f r).kind = r.kind ∧ (f r).station = r.station ∧ ((f r).state = .waiting → r.state = .waiting)) :
    Scheduled t where
  stations := h.stations.of_stations stations
  timed := h.timed.congr stations (by rw [engine])
  kinds := fun r hr kind => by
    rw [requests] at hr
    obtain ⟨q, hq, rfl⟩ := List.mem_map.1 hr
    rw [(keeps q).2.1]
    exact h.kinds q hq (by rwa [(keeps q).1] at kind)
  waits := fun r hr waiting b hb => by
    rw [requests] at hr
    obtain ⟨q, hq, rfl⟩ := List.mem_map.1 hr
    rw [(keeps q).2.1] at hb
    rw [State.station_of_stations stations]
    exact h.waits q hq ((keeps q).2.2 waiting) b hb

theorem Scheduled.completeRequest {s : State} (h : Scheduled s) (tag : Half) (result : RequestResult)
    (data : List Byte) : Scheduled (s.completeRequest tag result data) := by
  cases found : s.findRequest tag with
  | none =>
    have same : s.completeRequest tag result data = s := by simp [State.completeRequest, found]
    rw [same]; exact h
  | some r =>
    rw [State.completeRequest_eq found]
    refine h.mapRequests rfl rfl rfl fun q => ?_
    split <;> simp

theorem Scheduled.selectIf_kept {s t : State} (h : Scheduled t) (lined : Lined s) (engine : t.engine = s.engine)
    (fallback : t.fallback = s.fallback) (created : Bool) : Kept (t.selectIf created) := by
  have lined' := lined.congr engine fallback
  unfold State.selectIf
  split
  · exact h.select_kept lined'
  · exact .of_timed h.stations h.timed lined'

end Sys2Proof.Machine
end

section
/-!
SUPPORT. ENROL and MODIFY keep the stations and the timetable.
-/

namespace Sys2Proof.Machine

/-! ### What a command's answer leaves (R172, R173) -/

/-- A command in range is carried out on the state as it stands; every other leaves it so. -/
theorem checked_state {ρ π : Type} {layout : List Byte → Option ρ} {range : ρ → Option π}
    {carry : π → State → Answer} {params : List Byte} {s : State} {P : State → Prop} (refused : P s)
    (carried : ∀ raw p, range raw = some p → P (carry p s).state) :
    P (checked layout range carry params s).state := by
  unfold checked
  split
  · exact refused
  · split
    · exact refused
    · next raw _ _ p inRange => exact carried raw p inRange

theorem bare_state {carry : State → Answer} {params : List Byte} {s : State} {P : State → Prop} (refused : P s)
    (carried : P (carry s).state) : P (bare carry params s).state := by
  unfold bare
  split
  · exact carried
  · exact refused

theorem Station.reset_dueRight : Station.reset.dueRight := rfl

theorem Station.parked_dueRight (e : Station) : e.parked.dueRight := rfl

theorem Station.enrolled_dueRight (now : Clock) (p : EnrolParams) : (Station.enrolled now p).dueRight := rfl

/-! ### ENROL (R4, R5) -/

/-- A VACANT or PARKED entry has no committed call that is not orphaned. -/
theorem Timed.unserved {s : State} (h : Timed s) {a : Addr}
    (free : (s.station a).state = .vacant ∨ (s.station a).state = .parked) :
    ∀ x ∈ s.engine.exchange, x.record.station = some a → x.record.orphaned = true := by
  intro x hx named
  by_contra live
  obtain ⟨enrolled, listed⟩ := Origin.enrolled_of_fitsState (h.2 x hx a named (by simpa using live))
  rcases free with free | free
  · exact enrolled free
  · exact listed free

theorem Running.enrolStation_kept {s : State} (h : Running s) {p : EnrolParams} (range : p.fits) :
    Kept (s.enrolStation p).state := by
  have fresh : (s.station p.address).state = .vacant ∨ (s.station p.address).state = .parked →
      Kept (s.setStation p.address (Station.enrolled s.clock p)).select := by
    intro free
    have timed := h.timed.setStation (Station.enrolled_dueRight s.clock p) (h.timed.unserved free)
    refine (h.toScheduled.setEntry (Station.enrolled_fits s.clock range) timed ?_).select_kept (h.lined.congr rfl rfl)
    rcases free with free | free <;> simp [free, StationState.serves]
  unfold State.enrolStation
  cases state : (s.station p.address).state with
  | vacant => exact fresh (.inl state)
  | parked => exact fresh (.inr state)
  | probing => exact h.kept
  | online => exact h.kept
  | suspect => exact h.kept
  | lost => exact h.kept

/-! ### MODIFY (R6 to R11) -/

/-- R7, R8: which entries have a due time after a MODIFY. -/
theorem Station.modified_nextDue_isSome (now : Clock) (inProgress : Bool) (p : ModifyParams) (e : Station) :
    (e.modified now inProgress p).nextDue.isSome =
      (e.raisesPoll inProgress p.level || !(e.state == .online && p.level == some 0) && e.nextDue.isSome) := by
  have levelled : ∀ due : Option DueTime,
      due = (if e.raisesPoll inProgress p.level then some (DueTime.atOnce now)
        else if e.state = .online ∧ p.level = some 0 then none else e.nextDue) →
      due.isSome =
        (e.raisesPoll inProgress p.level || !(e.state == .online && p.level == some 0) && e.nextDue.isSome) := by
    rintro due rfl
    cases e.raisesPoll inProgress p.level
    · by_cases zero : e.state = .online ∧ p.level = some 0
      · simp [zero]
      · rw [if_neg (by simp), if_neg zero]
        have : (e.state == .online && p.level == some 0) = false := by simpa using zero
        simp [this]
    · simp
  rw [Station.modified_nextDue]
  cases p.period with
  | none => exact levelled _ rfl
  | some n =>
    dsimp only
    split
    · rw [Option.isSome_map]; exact levelled _ rfl
    · exact levelled _ rfl

theorem Station.dueFits_online {g : LineEngine} {a : Addr} {e : Station} (online : e.state = .online) :
    e.dueFits g a = true ↔ e.nextDue.isSome = (decide (1 ≤ e.level) && !g.serving Origin.isCyclicPoll a) := by
  unfold Station.dueFits
  rw [online]
  by_cases level : 1 ≤ e.level <;> cases e.nextDue <;> simp [level]

/-- R7: a poll in progress at an ONLINE station is a cyclic poll. -/
theorem Timed.pollInProgress_online {s : State} (h : Timed s) {a : Addr} (online : (s.station a).state = .online) :
    s.engine.pollInProgress a = s.engine.serving Origin.isCyclicPoll a := by
  unfold LineEngine.pollInProgress LineEngine.serving
  cases hx : s.engine.exchange with
  | none => rfl
  | some x =>
    dsimp only
    by_cases named : x.record.station = some a
    · cases orphaned : x.record.orphaned with
      | true => simp
      | false =>
        have fits := h.2 x hx a named orphaned
        rw [online] at fits
        cases origin : x.record.origin <;>
          simp [origin, Origin.fitsState, Origin.isPoll, Origin.isCyclicPoll] at fits ⊢
    · rw [beq_eq_false_iff_ne.2 named]
      simp only [Bool.false_and]

/-- A MODIFY that leaves the state leaves the due time where the level given, or else the old one, calls for it. -/
theorem Timed.modified_dueFits {s : State} (h : Timed s) (p : ModifyParams) (limit count : Nat) :
    ({ (s.station p.address).modified s.clock (s.engine.pollInProgress p.address) p with
      missLimit := limit, missCount := count } : Station).dueFits s.engine p.address = true := by
  have due := Station.modified_nextDue_isSome s.clock (s.engine.pollInProgress p.address) p (s.station p.address)
  have shape := Station.modified_eq s.clock (s.engine.pollInProgress p.address) p (s.station p.address)
  have state := congrArg Station.state shape
  have level := congrArg Station.level shape
  dsimp only at state level
  by_cases online : (s.station p.address).state = .online
  · have before := (Station.dueFits_online online).1 (h.1 p.address)
    rw [Station.dueFits_online (by rw [← online]; exact state)]
    dsimp only
    rw [due, level, before, h.pollInProgress_online online]
    cases given : p.level with
    | none => simp [Station.raisesPoll]
    | some l => cases old : (s.station p.address).level <;> cases l <;> simp [Station.raisesPoll, online, old]
  · have raises : (s.station p.address).raisesPoll (s.engine.pollInProgress p.address) p.level = false := by
      unfold Station.raisesPoll
      split <;> simp [online]
    have calls : ({ (s.station p.address).modified s.clock (s.engine.pollInProgress p.address) p with
        missLimit := limit, missCount := count } : Station).dueCall? = (s.station p.address).dueCall? := by
      unfold Station.dueCall?
      dsimp only
      rw [state]
      cases hs : (s.station p.address).state with
      | online => exact absurd hs online
      | _ => rfl
    rw [Station.dueFits_iff, calls]
    dsimp only
    rw [due, raises, ← (Station.dueFits_iff _ _ _).1 (h.1 p.address)]
    simp [online]

/-- A MODIFY of an enrolled entry, in range: what it leaves is what a selection can start from. -/
theorem Running.modifyStation {s : State} (h : Running s) {p : ModifyParams}
    (enrolled : (s.station p.address).state ≠ .vacant) (range : p.fits (s.station p.address).imageLength) :
    Scheduled (s.modifyStation p) := by
  have fits := h.stations p.address
  obtain ⟨-, -, -, -, -, low, high, -⟩ := id fits
  have limits : ∀ l, p.missLimit = some l → 1 ≤ l ∧ l ≤ 15 := fun l given => range.missLimit l given
  have state : ∀ inProgress,
      ((s.station p.address).modified s.clock inProgress p).state = (s.station p.address).state := fun _ => by
    rw [Station.modified_eq]
  obtain ⟨lostCount, below⟩ := fits.missCount
  by_cases lost : (s.station p.address).state = .suspect ∧
      ∃ l, p.missLimit = some l ∧ l ≤ (s.station p.address).missCount
  · obtain ⟨suspect, l, given, reached⟩ := lost
    have fits' := fits.modified enrolled range s.clock (s.engine.pollInProgress p.address) ⟨low, high⟩
      lostCount (fun _ => rfl) below
    rw [State.modifyStation_of_lost suspect given reached]
    have change := (s.setStation p.address
      { (s.station p.address).modified s.clock (s.engine.pollInProgress p.address) p with
        missLimit := l }).enterLost_drops p.address h.nodup .suspect
    rw [State.station_setStation_self] at change
    refine h.toScheduled.dropEntry change.of_setStation
      (fits'.lostWithLimit (.inr (by rw [← suspect]; exact state _)) (limits l given) _) ?_
    refine (h.timed.setEntry ?_ ?_).congr change.of_setStation.stations (by simp)
    · have probing : s.engine.serving Origin.isProbe p.address = false := by
        cases serving : s.engine.serving Origin.isProbe p.address with
        | false => rfl
        | true =>
          obtain ⟨x, hx, named, origin, live⟩ := LineEngine.serving_iff.1 serving
          have fitsState := h.timed.2 x hx _ named live
          rcases Origin.fitsState_hail fitsState with ⟨-, at_ | at_, -⟩ | ⟨-, -, other⟩
          · rw [suspect] at at_; cases at_
          · rw [suspect] at at_; cases at_
          · rw [origin] at other; cases other
      simp [Station.dueFits, Station.lostEntry, probing]
    · intro x hx named live
      have fitsState := h.timed.2 x hx _ named live
      rw [suspect] at fitsState
      exact Origin.fitsState_lost fitsState
  · have kept : (s.station p.address).state = .suspect → ∀ l, p.missLimit = some l →
        (s.station p.address).missCount < l := fun suspect l given => by
      by_contra reached
      exact lost ⟨suspect, l, given, by omega⟩
    rw [State.modifyStation_of_kept kept]
    refine h.toScheduled.setEntry
      (fits.modified enrolled range _ _ ?_ (fun lost => ?_) (fun other => if_neg other) fun suspect => ?_)
      (h.timed.setEntry (h.timed.modified_dueFits p _ _) fun x hx named live => ?_) ?_
    · cases given : p.missLimit with
      | none => exact ⟨low, high⟩
      | some l => exact limits l given
    · rw [if_pos lost]
      cases given : p.missLimit with
      | none => exact lostCount lost
      | some l => rfl
    · cases given : p.missLimit with
      | none => exact below suspect
      | some l => exact kept suspect l given
    · rw [state]
      exact h.timed.2 x hx _ named live
    · dsimp only
      rw [state]
      exact id

end Sys2Proof.Machine
end

section
/-!
SUPPORT. Every command keeps the stations, the timetable and the line.
-/

namespace Sys2Proof.Machine

/-! ### PARK and RELEASE (R12, R13, R110) -/

theorem LineEngine.orphan_exchange_mem {a : Addr} {g : LineEngine} {x : Exchange}
    (h : x ∈ (g.orphan a).exchange) :
    ∃ y ∈ g.exchange, x.phase = y.phase ∧
      (y.record.station = some a ∧ x.record = { y.record with orphaned := true } ∨
        y.record.station ≠ some a ∧ x.record = y.record) := by
  obtain ⟨y, hy, rfl⟩ := Option.mem_map.1 h
  refine ⟨y, hy, ?_⟩
  split
  · next named => exact ⟨rfl, .inl ⟨named, rfl⟩⟩
  · next other => exact ⟨rfl, .inr ⟨other, rfl⟩⟩

/-- An orphaned exchange serves its station no longer, and every other as before. -/
theorem LineEngine.serving_orphan (origin : Origin → Bool) (a b : Addr) (g : LineEngine) :
    (g.orphan a).serving origin b = (decide (b ≠ a) && g.serving origin b) := by
  unfold LineEngine.serving LineEngine.orphan
  cases g.exchange with
  | none => simp
  | some x =>
    by_cases named : x.record.station = some a
    · by_cases same : b = a
      · simp [named, same]
      · have other : a ≠ b := fun h => same h.symm
        simp [named, same, other]
    · by_cases same : b = a
      · subst same; simp [named]
      · simp [named, same]

/-- R12, R13, R110: a station taken off the line, its exchange an orphan. -/
theorem Timed.takeOff {s t : State} (h : Timed s) {a : Addr} {e : Station} (right : e.dueRight)
    (stations : t.stations = (s.setStation a e).stations) (engine : t.engine = s.engine.orphan a) : Timed t := by
  have station : ∀ b, t.station b = if b = a then e else s.station b := fun b => by
    rw [State.station_of_stations stations, State.station_setStation]
  refine ⟨fun b => ?_, fun x hx b hb live => ?_⟩
  · rw [station, engine]
    by_cases same : b = a
    · rw [if_pos same]
      exact (Station.dueFits_of_unserved (fun origin => by simp [LineEngine.serving_orphan, same]) e).2 right
    · rw [if_neg same, Station.dueFits_iff]
      simpa [LineEngine.serving_orphan, same] using (Station.dueFits_iff _ _ _).1 (h.1 b)
  · rw [engine] at hx
    obtain ⟨y, hy, -, ⟨-, record⟩ | ⟨other, record⟩⟩ := LineEngine.orphan_exchange_mem hx
    · rw [record] at live; cases live
    · rw [record] at hb live ⊢
      have elsewhere : b ≠ a := by rintro rfl; exact other hb
      rw [station, if_neg elsewhere]
      exact h.2 y hy b hb live

theorem LineRole.fitsExchange_of_phase {x y : Exchange} (role : LineRole) (h : x.phase = y.phase) :
    role.fitsExchange (some x) = role.fitsExchange (some y) := by
  cases role <;> simp [LineRole.fitsExchange, h]

theorem Lined.orphan {s t : State} (h : Lined s) {a : Addr} (engine : t.engine = s.engine.orphan a)
    (fallback : t.fallback = s.fallback) : Lined t := by
  obtain ⟨role, lines, framer, fits⟩ := h
  unfold Lined
  rw [engine, fallback]
  unfold LineEngine.orphan
  unfold LineEngine.linesFit at lines ⊢
  unfold Fallback.fits LineEngine.onFallback at fits ⊢
  cases on : s.engine.exchange with
  | none =>
    rw [on] at role lines fits
    exact ⟨role, lines, framer, fits⟩
  | some x =>
    rw [on] at role lines fits
    dsimp only [Option.map_some]
    split
    · exact ⟨(LineRole.fitsExchange_of_phase _ (by rfl)).trans role, lines, framer, fits⟩
    · exact ⟨role, lines, framer, fits⟩

theorem Running.takeOff_kept {s : State} (h : Running s) {a : Addr} {e : Station} (fits : e.fits)
    (right : e.dueRight) (result : RequestResult) :
    Kept (((s.setStation a e).removeWaiting a result).withEngine (LineEngine.orphan a)) :=
  .of_timed ((h.stations.setStation fits (a := a)).of_stations (by simp))
    (h.timed.takeOff (a := a) right (by simp) (by simp)) (h.lined.orphan (a := a) (by simp) (by simp))

theorem Running.parkStation_kept {s : State} (h : Running s) (a : Addr) : Kept (s.parkStation a).state := by
  have off : (s.station a).state ≠ .vacant →
      Kept (((s.withStation a Station.parked).removeWaiting a .cancelled).withEngine (LineEngine.orphan a)) :=
    fun enrolled => h.takeOff_kept ((h.stations a).parked enrolled) (Station.parked_dueRight _) _
  unfold State.parkStation
  cases state : (s.station a).state with
  | vacant => exact h.kept
  | parked => exact h.kept
  | probing => exact off (by simp [state])
  | online => exact off (by simp [state])
  | suspect => exact off (by simp [state])
  | lost => exact off (by simp [state])

theorem Running.releaseStation_kept {s : State} (h : Running s) (a : Addr) : Kept (s.releaseStation a).state := by
  unfold State.releaseStation
  cases (s.station a).state with
  | vacant => exact h.kept
  | _ => exact h.takeOff_kept Station.reset_fits Station.reset_dueRight _

theorem Running.modifyEntry_kept {s : State} (h : Running s) {p : ModifyParams}
    (range : p.fits (s.station p.address).imageLength) : Kept (s.modifyEntry p).state := by
  have modified : (s.station p.address).state ≠ .vacant → Kept ((s.modifyStation p).selectIf
      ((s.station p.address).raisesPoll (s.engine.pollInProgress p.address) p.level)) := fun enrolled =>
    (h.modifyStation enrolled range).selectIf_kept h.lined (by simp) (by simp) _
  unfold State.modifyEntry
  cases state : (s.station p.address).state with
  | vacant => exact h.kept
  | probing => exact modified (by simp [state])
  | online => exact modified (by simp [state])
  | suspect => exact modified (by simp [state])
  | lost => exact modified (by simp [state])
  | parked => exact modified (by simp [state])

/-! ### Requests (R32 to R35, R46) -/

theorem rangeStationRequest_station {kind : RequestKind} {raw : RawRequest} {p : RequestParams}
    (h : rangeStationRequest kind raw = some p) : p.kind = kind ∧ p.station ≠ none := by
  simp only [rangeStationRequest, Option.bind_eq_bind, Option.bind_eq_some_iff, Option.some.injEq] at h
  obtain ⟨a, -, _, -, _, -, _, -, rfl⟩ := h
  simp

theorem rangeBroadcast_station {raw : RawRequest} {p : RequestParams} (h : rangeBroadcast raw = some p) :
    p.station = none := by
  simp only [rangeBroadcast, Option.bind_eq_bind, Option.bind_eq_some_iff, Option.some.injEq] at h
  obtain ⟨_, -, _, -, rfl⟩ := h
  rfl

theorem State.serves_some {s : State} {a : Addr} : s.serves (some a) = (s.station a).state.serves := by
  simp only [State.serves]
  cases (s.station a).state <;> rfl

theorem Running.acceptRequest_kept {s : State} (h : Running s) {p : RequestParams}
    (kind : p.kind = .broadcast → p.station = none) : Kept (s.acceptRequest p).state := by
  unfold State.acceptRequest
  split
  · exact h.kept
  split
  · exact h.kept
  split
  · exact h.kept
  · next serves =>
    have serves : s.serves p.station = true := by simpa using serves
    have queued : Scheduled (s.withRequests fun rs => rs ++ [newRequest s.clock p]) := by
      refine ⟨h.stations.of_stations rfl, h.timed.congr rfl rfl, fun r hr => ?_, fun r hr waiting a ha => ?_⟩
      · rcases List.mem_append.1 hr with hr | hr
        · exact h.kinds r hr
        · rw [List.mem_singleton.1 hr]; exact kind
      · rcases List.mem_append.1 hr with hr | hr
        · exact h.waits r hr waiting a ha
        · rw [List.mem_singleton.1 hr] at ha
          have station : p.station = some a := ha
          rw [station, State.serves_some] at serves
          exact serves
    exact queued.selectIf_kept h.lined rfl rfl _

theorem Running.cancelRequest_kept {s : State} (h : Running s) (tag : Half) :
    Kept (s.cancelRequest tag).state := by
  unfold State.cancelRequest
  split
  · exact h.kept
  · split
    · exact (h.toScheduled.completeRequest tag .cancelled []).selectIf_kept h.lined (by simp) (by simp) _
    · exact h.kept
    · exact h.kept

/-! ### Line commands (R116 to R121) and FALLBACK_SET (R188) -/

theorem Running.toMaster {s : State} (h : Running s) (idle : s.engine.exchange = none) :
    Running (s.withEngine fun g => { g with role := .master }) := by
  obtain ⟨-, lde, framer, timer, pending, phase⟩ := (lined_of_idle idle).1 h.lined
  have lined : Lined (s.withEngine fun g => { g with role := .master }) :=
    (lined_of_idle (s := s.withEngine fun g => { g with role := .master }) idle).2
      ⟨by simp, lde, framer, fun running => ⟨(timer running).1, rfl⟩, pending, phase⟩
  obtain ⟨role, lines, framer, fallback⟩ := lined
  exact ⟨⟨⟨h.stations.of_stations rfl, h.timed.congr rfl rfl, h.kinds, h.waits⟩, h.running, role, framer, fallback,
    h.nodup, h.served⟩, lines⟩

theorem Running.becomeMaster_kept {s : State} (h : Running s) (idle : s.engine.exchange = none) :
    Kept s.becomeMaster := by
  have master := (h.toMaster idle).restartSilence
  exact master.toScheduled.select_kept master.lined

/-- R118: a LINE_STOP with a call under way leaves the exchange to complete in STOPPING. -/
theorem Running.stopping_kept {s : State} (h : Running s) {x : Exchange} (on : s.engine.exchange = some x)
    (begun : x.phase ≠ .gap) :
    Kept (s.leaveMaster .stopping (if x.record.origin = .fallback then .broadcast else .none)) := by
  refine .of_timed (h.stations.of_stations (by simp)) (h.timed.congr (by simp) rfl) ⟨?_, h.lines, h.framer, ?_⟩
  · show LineRole.fitsExchange .stopping s.engine.exchange = true
    rw [on]
    cases phase : x.phase with
    | gap => exact absurd phase begun
    | _ => simp [LineRole.fitsExchange, phase]
  · by_cases origin : x.record.origin = .fallback <;>
      simp [State.leaveMaster, State.withFallback, State.withEngine, Fallback.fits, LineEngine.onFallback, on, origin]

theorem Running.stopMaster_kept {s : State} (h : Running s) : Kept s.stopMaster := by
  unfold State.stopMaster
  cases on : s.engine.exchange with
  | none => exact (h.idle on).leaveMaster_kept (by simp)
  | some x =>
    cases phase : x.phase with
    | gap =>
      obtain ⟨stations, right⟩ := h.undoCommitment on none
      have lines := h.lines
      have lde : s.engine.lde = false := by simpa [LineEngine.linesFit, on, phase] using lines
      have idle : Idle (s.undoCommitment x.record none) :=
        ⟨stations, right, by simp, by simpa using lde, by simpa using h.framer⟩
      simpa only [phase] using idle.leaveMaster_kept (by simp)
    | sending elapsed ended paired => simpa only [phase] using h.stopping_kept on (by simp [phase])
    | await since seen => simpa only [phase] using h.stopping_kept on (by simp [phase])
    | receiving => simpa only [phase] using h.stopping_kept on (by simp [phase])
    | settle => simpa only [phase] using h.stopping_kept on (by simp [phase])

theorem Running.setFallback_kept {s : State} (h : Running s) (p : FallbackParams) : Kept (s.setFallback p) := by
  unfold State.setFallback
  dsimp only
  split
  · next armed =>
    have set : Running (s.withFallback fun f => { f with limit := p.limit, payload := p.payload }) :=
      h.withFallback (Fallback.fits_of_timer h.fallback rfl rfl fun running =>
        ⟨armed, (Fallback.runs_of_fits h.fallback running).2⟩)
    exact set.restartSilence.kept
  · exact (h.withFallback (f := fun f => { f with limit := p.limit, payload := p.payload, timer := none })
      (Fallback.fits_of_timer h.fallback rfl rfl (by simp))).kept

theorem Running.setParams_kept {s : State} (h : Running s) (role : s.engine.role = .off) (p : LineParams) :
    Kept (s.withEngine (LineEngine.setParams p)) := by
  have idle := h.idle_of_role (.inl role)
  have lines := h.lines
  unfold LineEngine.linesFit at lines
  rw [idle.exchange] at lines
  refine (h.withEngine ?_ ?_ ?_ ?_).kept <;> unfold LineEngine.setParams <;> split
  · rfl
  · rfl
  · rfl
  · rfl
  · exact h.framer
  · rfl
  · simpa [LineEngine.linesFit, idle.exchange] using lines
  · simpa [LineEngine.linesFit, idle.exchange] using lines

/-! ### Every command (R172) -/

theorem Running.perform_kept {s : State} (h : Running s) (name : CommandName) (params : List Byte) :
    Kept (s.perform name params).state := by
  cases name with
  | identify => exact bare_state h.kept h.kept
  | status =>
    refine checked_state h.kept fun raw clear _ => ?_
    cases clear with
    | false => exact h.kept
    | true =>
      exact (h.withEngine (f := fun g => { g with counters := LineCounters.zero }) rfl rfl h.framer h.lines).kept.congr
        rfl rfl rfl rfl
  | restart => exact bare_state h.kept (h.kept.congr rfl rfl rfl rfl)
  | linkSetup => exact checked_state h.kept fun raw p _ => h.kept.congr rfl rfl rfl rfl
  | fallbackSet => exact checked_state h.kept fun raw p _ => h.setFallback_kept p
  | lineSetup =>
    refine checked_state h.kept fun raw p _ => ?_
    cases role : s.engine.role with
    | off => exact h.setParams_kept role p
    | _ => exact h.kept
  | lineStart =>
    refine bare_state h.kept ?_
    cases role : s.engine.role with
    | off => exact h.becomeMaster_kept (h.idle_of_role (.inl role)).exchange
    | _ => exact h.kept
  | lineStop =>
    refine bare_state h.kept ?_
    cases role : s.engine.role with
    | master => exact h.stopMaster_kept
    | yielded => exact (h.idle_of_role (.inr role)).leaveMaster_kept (by simp)
    | _ => exact h.kept
  | lineResume =>
    refine bare_state h.kept ?_
    cases role : s.engine.role with
    | yielded =>
      dsimp only
      split
      · exact h.becomeMaster_kept (h.idle_of_role (.inr role)).exchange
      · exact h.kept
    | _ => exact h.kept
  | enrol => exact checked_state h.kept fun raw p range => h.enrolStation_kept (rangeEnrol_fits range)
  | modify => exact checked_state h.kept fun raw p range => h.modifyEntry_kept (rangeModify_fits range)
  | park => exact checked_state h.kept fun raw a _ => h.parkStation_kept a
  | release => exact checked_state h.kept fun raw a _ => h.releaseStation_kept a
  | stationQuery => exact checked_state h.kept fun raw a _ => h.kept
  | roster => exact bare_state h.kept h.kept
  | put =>
    refine checked_state h.kept fun raw p range => h.acceptRequest_kept fun kind => ?_
    rw [(rangeStationRequest_station range).1] at kind; cases kind
  | get =>
    refine checked_state h.kept fun raw p range => h.acceptRequest_kept fun kind => ?_
    rw [(rangeStationRequest_station range).1] at kind; cases kind
  | broadcast =>
    exact checked_state h.kept fun raw p range => h.acceptRequest_kept fun _ => rangeBroadcast_station range
  | cancel => exact checked_state h.kept fun raw tag _ => h.cancelRequest_kept tag
  | queueQuery => exact bare_state h.kept h.kept

theorem Running.carryOut_kept {s : State} (h : Running s) (f : CommandFrame) : Kept (s.carryOut f) := by
  have answered : Kept (s.answer f.body).state := by
    unfold State.answer
    split
    · exact h.kept
    · split
      · exact h.kept
      · exact h.perform_kept _ _
  exact answered.congr (by simp [State.carryOut]) (by simp [State.carryOut]) (by simp [State.carryOut])
    (by simp [State.carryOut])

theorem Running.takeFrame_kept {s : State} (h : Running s) (f : CommandFrame) : Kept (s.takeFrame f) := by
  unfold State.takeFrame
  split
  · exact h.carryOut_kept f
  · split
    · exact h.kept.congr rfl rfl rfl rfl
    · exact h.carryOut_kept f

theorem Running.takeReady_kept {s : State} (h : Running s) : Kept s.takeReady := by
  unfold State.takeReady
  split
  · exact (h.congr (t := s.withHost fun g => { g with readySlot := none }) rfl rfl rfl rfl rfl).takeFrame_kept _
  · exact h.kept
  · exact h.kept

theorem Running.offer_kept {s : State} (h : Running s) (f : CommandFrame) : Kept (s.offer f) :=
  (h.congr (t := s.placeReady f) (by simp) (by simp) (by simp) (by simp) (by simp)).goodFrame.takeReady_kept

end Sys2Proof.Machine
end

section
/-!
SUPPORT. Rows of the timetable, the deadlines, the call and its echo.
-/

namespace Sys2Proof.Machine

/-! ### Changes of the exchange state (R90, R94) -/

theorem Ongoing.kept {s : State} (h : Ongoing s) (lines : s.engine.linesFit = true) : Kept s :=
  Running.kept ⟨h, lines⟩

/-- The exchange in progress goes on in another state past GAP. -/
theorem Ongoing.kept_of_phase {s : State} (h : Ongoing s) {x : Exchange} (on : s.engine.exchange = some x)
    {f : LineEngine → LineEngine} {phase : Phase} (role : (f s.engine).role = s.engine.role)
    (exchange : (f s.engine).exchange = some ⟨x.record, phase⟩) (begun : phase ≠ .gap)
    (framer : (f s.engine).framer.fits = true) (lines : (f s.engine).linesFit = true) : Kept (s.withEngine f) := by
  refine .of_timed (h.stations.of_stations rfl)
    (h.timed.congr rfl (by simp [LineEngine.record?, exchange, on])) ⟨?_, lines, framer, ?_⟩
  · simp only [State.withEngine_engine, role, exchange]
    rcases h.role_on on with master | stopping
    · simp [master, LineRole.fitsExchange]
    · rw [stopping]
      cases phase <;> simp [LineRole.fitsExchange] at begun ⊢
  · simpa [Fallback.fits, LineEngine.onFallback, role, exchange, on] using h.fallback

/-- An exchange state without what it measures. -/
def Phase.shape : Phase → Phase
  | .gap => .gap
  | .sending _ ended paired => .sending 0 ended paired
  | .await _ _ => .await 0 false
  | .receiving => .receiving
  | .settle => .settle

theorem Phase.elapse_shape (n : Nat) (p : Phase) : (p.elapse n).shape = p.shape := by cases p <;> rfl

theorem Phase.startBit_shape (p : Phase) : p.startBit.shape = p.shape := by cases p <;> rfl

theorem LineEngine.with_exchange_self {g : LineEngine} {exchange : Option Exchange} (h : g.exchange = exchange) :
    { g with exchange := exchange } = g := by
  subst h; rfl

/-- A measure of the exchange state goes on. -/
theorem Running.mapPhase_kept {s t : State} (h : Running s) {f : Phase → Phase} (shape : ∀ p, (f p).shape = p.shape)
    (stations : t.stations = s.stations) (fallback : t.fallback = s.fallback) (role : t.engine.role = s.engine.role)
    (lde : t.engine.lde = s.engine.lde) (framer : t.engine.framer = s.engine.framer)
    (exchange : t.engine.exchange = s.engine.exchange.map fun x => { x with phase := f x.phase }) : Kept t := by
  have record : t.engine.record? = s.engine.record? := by
    simp only [LineEngine.record?, exchange, Option.map_map]; rfl
  refine .of_timed (h.stations.of_stations stations) (h.timed.congr stations record) ?_
  obtain ⟨roles, lines, framers, fits⟩ := h.lined
  unfold Lined
  unfold LineEngine.linesFit at lines ⊢
  unfold Fallback.fits LineEngine.onFallback at fits ⊢
  rw [fallback, role, lde, framer, exchange]
  cases on : s.engine.exchange with
  | none => rw [on] at roles lines fits; exact ⟨roles, lines, framers, fits⟩
  | some x =>
    rw [on] at roles lines fits
    obtain ⟨record, phase⟩ := x
    have same := shape phase
    dsimp only [Option.map_some] at lines ⊢
    refine ⟨?_, ?_, framers, fits⟩
    · cases phase <;> cases later : f _ <;> rw [later] at same <;> simp [Phase.shape] at same <;>
        cases role : s.engine.role <;> rw [role] at roles <;> simp [LineRole.fitsExchange] at roles ⊢
    · cases phase <;> cases later : f _ <;> rw [later] at same <;> simp [Phase.shape] at same <;>
        simpa [LineEngine.linesFit, same] using lines

/-! ### Rows of the timetable and the deadlines (R45, R56) -/

/-- An entry with a next due is enrolled. -/
theorem Station.fits.enrolled_of_due {e : Station} (h : e.fits) {d : DueTime} (due : e.nextDue = some d) :
    e.state ≠ .vacant := by
  intro vacant
  rw [Station.fits, vacant] at h
  obtain ⟨-, -, -, -, -, -, -, -, -, -, reset⟩ := h
  rw [reset] at due
  cases due

/-- A mark set on a due time that is present. -/
theorem Scheduled.markDue {s : State} (h : Scheduled s) {a : Addr} {d : DueTime}
    (due : (s.station a).nextDue = some d) (d' : DueTime) :
    Scheduled (s.withStation a fun e => { e with nextDue := some d' }) := by
  refine h.setEntry ((h.stations a).withDue ((h.stations a).enrolled_of_due due) _) (h.timed.setEntry ?_ ?_) id
  · have before := (Station.dueFits_iff _ _ _).1 (h.timed.1 a)
    rw [due] at before
    exact (Station.dueFits_iff _ _ _).2 before
  · exact fun x hx named live => h.timed.2 x hx a named live

theorem Running.deadlineExpiry_kept {s : State} (h : Running s) (tag : Half) {d : Dest} :
    Kept ((s.completeRequest tag .expired []).selectIf ((s.completeRequest tag .expired []).hasEligible d)) :=
  (h.toScheduled.completeRequest tag .expired []).selectIf_kept h.lined (by simp) (by simp) _

theorem Origin.saturate_cases (now : Clock) (o : Origin) :
    (o.saturate now).isRequest = o.isRequest ∧ (o.saturate now == .fallback) = (o == .fallback) ∧
      (∀ c : DueCall, c.fitsOrigin (o.saturate now) = c.fitsOrigin o) ∧
      ∀ kind state, (o.saturate now).fitsState kind state = o.fitsState kind state := by
  have marked : o.saturate now = o ∨ (∃ d d', o = .poll d ∧ o.saturate now = .poll d') ∨
      (∃ d d', o = .recoveryPoll d ∧ o.saturate now = .recoveryPoll d') ∨
      ∃ d d', o = .probe d ∧ o.saturate now = .probe d' := by
    unfold Origin.saturate
    cases o <;> simp <;> split <;> simp
  rcases marked with same | ⟨d, d', rfl, same⟩ | ⟨d, d', rfl, same⟩ | ⟨d, d', rfl, same⟩ <;> rw [same]
  · exact ⟨rfl, rfl, fun _ => rfl, fun _ _ => rfl⟩
  all_goals exact ⟨rfl, rfl, fun c => by cases c <;> rfl, fun _ _ => rfl⟩

/-- R56: the saturated mark on the anchor of the exchange in progress. -/
theorem Running.saturateAnchor_kept {s : State} (h : Running s) :
    Kept (s.withEngine fun g => { g with exchange := g.exchange.map fun x =>
      { x with record := { x.record with origin := x.record.origin.saturate s.clock } } }) := by
  cases on : s.engine.exchange with
  | none =>
    have same : (s.withEngine fun g => { g with exchange := g.exchange.map fun x =>
        { x with record := { x.record with origin := x.record.origin.saturate s.clock } } }).engine = s.engine :=
      LineEngine.with_exchange_self (by simp [on])
    exact h.kept.congr rfl same rfl rfl
  | some x =>
    obtain ⟨-, fallback, due, state⟩ := x.record.origin.saturate_cases s.clock
    have exchange : (s.withEngine fun g => { g with exchange := g.exchange.map fun x =>
        { x with record := { x.record with origin := x.record.origin.saturate s.clock } } }).engine.exchange =
        some { x with record := { x.record with origin := x.record.origin.saturate s.clock } } := by simp [on]
    refine .of_timed (h.stations.of_stations rfl) ⟨fun a => ?_, fun y hy a ha live => ?_⟩ ⟨?_, ?_, h.framer, ?_⟩
    · rw [Station.dueFits_iff]
      simpa [LineEngine.serving, on, due] using (Station.dueFits_iff _ _ _).1 (h.timed.1 a)
    · rw [exchange] at hy
      cases hy
      exact (state _ _).trans (h.timed.2 x on a ha live)
    · rw [exchange]
      have role := h.role
      rw [on] at role
      exact (LineRole.fitsExchange_of_phase _ (by rfl)).trans role
    · have lines := h.lines
      unfold LineEngine.linesFit at lines ⊢
      rw [on] at lines
      rw [exchange]
      exact lines
    · simpa [Fallback.fits, LineEngine.onFallback, on, fallback] using h.fallback

/-- R190: the silence timer runs out. -/
theorem Running.silenceExpired_kept {s : State} (h : Running s) {start : Clock}
    (running : s.fallback.timer = some start) :
    Kept (if s.engine.exchange.isSome then
        (s.withFallback fun f => { f with timer := none, pending := true }).withFallback
          fun f => { f with phase := .awaitingExchange }
      else (s.withFallback fun f => { f with timer := none, pending := true }).advanceFallback) := by
  obtain ⟨-, role, pending⟩ := Fallback.runs_of_fits h.fallback (by rw [running]; rfl)
  cases on : s.engine.exchange with
  | none =>
    have idle := h.idle on
    exact Idle.advanceFallback_kept
      (s := s.withFallback fun f => { f with timer := none, pending := true })
      ⟨idle.stations.of_stations rfl, idle.right, on, idle.lde, idle.framer⟩ role rfl rfl
  | some x =>
    have other : s.engine.onFallback = false := by
      have fits := h.fallback
      unfold Fallback.fits at fits
      cases phase : s.fallback.phase <;> simp_all
    refine (h.withFallback (f := fun f =>
      { f with timer := none, pending := true, phase := .awaitingExchange }) ?_).kept
    simp [Fallback.fits, role, on, other]

/-! ### Rows of the call and its echo (R92 to R98) -/

theorem Running.tryStart_kept {s : State} (h : Running s) : Kept (s.withEngine LineEngine.tryStart) := by
  cases on : s.engine.exchange with
  | none =>
    have same : (s.withEngine LineEngine.tryStart).engine = s.engine := by simp [LineEngine.tryStart, on]
    exact h.kept.congr rfl same rfl rfl
  | some x =>
    by_cases starts : x.phase = .gap ∧ s.engine.maySend = true
    · have started : s.engine.tryStart =
          { s.engine with exchange := some ⟨x.record, .sending 0 0 0⟩, lde := true } := by
        simp [LineEngine.tryStart, on, starts]
      have long := x.record.call_pos
      refine h.toOngoing.kept_of_phase on (phase := .sending 0 0 0) ?_ ?_ (by simp) ?_ ?_ <;> rw [started]
      · exact h.framer
      · simp [LineEngine.linesFit, long]
    · have same : (s.withEngine LineEngine.tryStart).engine = s.engine := by
        unfold LineEngine.tryStart
        simp only [State.withEngine_engine, on]
        cases phase : x.phase <;> simp_all
      exact h.kept.congr rfl same rfl rfl

theorem State.setPhase_exchange {s : State} {x : Exchange} (on : s.engine.exchange = some x) (phase : Phase) :
    (s.setPhase phase).engine = { s.engine with exchange := some ⟨x.record, phase⟩ } := by
  simp [State.setPhase, on]

/-- The exchange state set anew, past GAP. -/
theorem Ongoing.setPhase_kept {s : State} (h : Ongoing s) {x : Exchange} (on : s.engine.exchange = some x)
    {phase : Phase} (begun : phase ≠ .gap)
    (lines : ({ s.engine with exchange := some ⟨x.record, phase⟩ } : LineEngine).linesFit = true) :
    Kept (s.setPhase phase) := by
  refine h.kept_of_phase on (phase := phase) ?_ ?_ begun ?_ ?_
  · rfl
  · simp [on]
  · exact h.framer
  · simpa [on] using lines

theorem Ongoing.hear {s : State} (h : Ongoing s) (stop : StopBit) : Ongoing (s.hear stop) :=
  h.withEngine rfl rfl h.framer

theorem Ongoing.setFramer {s : State} (h : Ongoing s) {f : Framer} (fits : f.fits = true) : Ongoing (s.setFramer f) :=
  h.withEngine rfl rfl fits

theorem Running.hear {s : State} (h : Running s) (stop : StopBit) : Running (s.hear stop) :=
  h.withEngine rfl rfl h.framer h.lines

/-- What LDE and the framer are in each exchange state. -/
theorem Running.lines_on {s : State} (h : Running s) {x : Exchange} (on : s.engine.exchange = some x) :
    match x.phase with
    | .gap => s.engine.lde = false
    | .sending _ ended paired => s.engine.lde = true ∧ ended ≤ x.record.call.length ∧ paired ≤ ended + 1 ∧
        paired < x.record.call.length
    | .await _ _ => s.engine.lde = false ∧ s.engine.framer = .ready ∧ x.record.kind ≠ .bcast
    | .receiving => s.engine.lde = false ∧ s.engine.framer.isCollecting = true ∧ x.record.kind ≠ .bcast
    | .settle => s.engine.lde = false ∧ s.engine.framer = .ready ∧ x.record.kind = .bcast := by
  have lines := h.lines
  unfold LineEngine.linesFit at lines
  rw [on] at lines
  cases phase : x.phase <;> simp only [phase] at lines ⊢ <;> simpa [and_assoc] using lines

theorem Ongoing.callSent_kept {s : State} (h : Ongoing s) {x : Exchange} (on : s.engine.exchange = some x) :
    Kept (s.callSent x.record.kind) := by
  have sent : Ongoing (s.withEngine fun g => { g with
      lde := false, framer := .ready, counters := { g.counters with callsSent := satInc g.counters.callsSent } }) :=
    h.withEngine rfl rfl rfl
  refine sent.setPhase_kept (x := x) (by simpa using on) ?_ ?_
  · split <;> simp
  · split
    · next kind => simp [LineEngine.linesFit, kind]
    · next kind => simp [LineEngine.linesFit, kind]

theorem Running.echo_kept {s : State} (h : Running s) {record : ExchangeRecord} {elapsed ended paired : Nat}
    (on : s.engine.exchange = some ⟨record, .sending elapsed ended paired⟩) (ch : RxChar) :
    Kept (if echoGood s.engine.params.rate record.call elapsed ended paired ch then
        (if paired + 1 = record.call.length then (s.hear ch.stop).callSent record.kind
          else (s.hear ch.stop).setPhase (.sending elapsed ended (paired + 1)))
      else (s.hear ch.stop).collide .echo) := by
  have heard := h.toOngoing.hear ch.stop
  have on' : (s.hear ch.stop).engine.exchange = some ⟨record, .sending elapsed ended paired⟩ := on
  obtain ⟨lde, sent, next, short⟩ := h.lines_on on
  split
  · next good =>
    split
    · exact heard.callSent_kept on'
    · next more =>
      refine heard.setPhase_kept on' (by simp) ?_
      have inTime : paired < min record.call.length (ended + 1) := by
        simp only [echoGood, Bool.and_eq_true, decide_eq_true_eq] at good
        exact good.1.1.2
      have lde' : (s.hear ch.stop).engine.lde = true := lde
      dsimp only at sent short
      simp [LineEngine.linesFit, lde']
      omega
  · exact heard.collide_kept on' .echo

theorem Running.characterSent_kept {s : State} (h : Running s) {record : ExchangeRecord} {elapsed ended paired : Nat}
    (on : s.engine.exchange = some ⟨record, .sending elapsed ended paired⟩) (more : ended < record.call.length) :
    Kept (s.setPhase (.sending elapsed (ended + 1) paired)) := by
  obtain ⟨lde, sent, next, short⟩ := h.lines_on on
  refine h.toOngoing.setPhase_kept on (by simp) ?_
  dsimp only at sent short
  simp [LineEngine.linesFit, lde]
  omega

end Sys2Proof.Machine
end

section
/-!
SUPPORT. Rows of the telegram framer, and reset.
-/

namespace Sys2Proof.Machine

/-! ### Rows of the telegram framer (R81 to R84, R101, R102) -/

/-- R102: a classification is an answer or a miss. -/
theorem ExchangeRecord.classify_ne_collision (r : ExchangeRecord) (chars : List Byte) (detail : CollisionDetail) :
    r.classify chars ≠ .collision detail := by
  unfold ExchangeRecord.classify
  dsimp only
  repeat' split
  all_goals simp

/-- R102, check 5, R103: a GOOD poll carries an image of the length recorded. -/
theorem ExchangeRecord.classify_good_poll {r : ExchangeRecord} {chars : List Byte} (kind : r.kind = .poll)
    (good : r.classify chars = .good) : r.imageLength = some (telegramPayload chars).length := by
  unfold ExchangeRecord.classify at good
  dsimp only at good
  split at good
  · cases good
  split at good
  · cases good
  split at good
  · cases good
  next accepted =>
    split at good
    · cases good
    split at good
    · cases good
    next length =>
      split at good
      · cases good
      next nak =>
        by_contra other
        cases reply : headerReplyKind? (charAt chars 0) with
        | none => simp [replyAccepted, kind, reply] at accepted
        | some reply' =>
          cases reply' with
          | data => exact length ⟨kind, reply, other⟩
          | nak => exact nak reply
          | ack => simp [replyAccepted, kind, reply] at accepted
          | ident => simp [replyAccepted, kind, reply] at accepted

/-- R90: with LDE released and no exchange past GAP the framer is free. -/
theorem LineEngine.linesFit_of_released {g : LineEngine} (lde : g.lde = false)
    (phase : ∀ x, g.exchange = some x → x.phase = .gap) : g.linesFit = true := by
  unfold LineEngine.linesFit
  cases on : g.exchange with
  | none => simp [lde]
  | some x => simp [phase x on, lde]

/-- R90: a telegram is collected in IDLE, GAP or RECEIVING. -/
theorem LineEngine.linesFit_of_collecting {g : LineEngine} (lde : g.lde = false)
    (collecting : g.framer.isCollecting = true)
    (phase : ∀ x, g.exchange = some x → x.phase = .gap ∨ x.phase = .receiving ∧ x.record.kind ≠ .bcast) :
    g.linesFit = true := by
  unfold LineEngine.linesFit
  cases on : g.exchange with
  | none => simp [lde]
  | some x => rcases phase x on with gap | ⟨receiving, kind⟩ <;> simp [*]

/-- R101, R102: what ends a reply keeps the stations, the timetable and the line, if the exchange was not in AWAIT or
SETTLE. -/
theorem Ongoing.reply_kept {s : State} (h : Ongoing s) (lde : s.engine.lde = false)
    (phase : ∀ x, s.engine.exchange = some x → x.phase = .gap ∨ x.phase = .receiving)
    {ends : State → State} (receiving : ∀ record, s.engine.exchange = some ⟨record, .receiving⟩ → Kept (ends s))
    (other : (∀ record, s.engine.exchange ≠ some ⟨record, .receiving⟩) → ends s = s) : Kept (ends s) := by
  by_cases on : ∃ record, s.engine.exchange = some ⟨record, .receiving⟩
  · obtain ⟨record, on⟩ := on
    exact receiving record on
  · have on : ∀ record, s.engine.exchange ≠ some ⟨record, .receiving⟩ := fun record hr => on ⟨record, hr⟩
    rw [other on]
    refine h.kept (LineEngine.linesFit_of_released lde fun x hx => ?_)
    rcases phase x hx with gap | receiving
    · exact gap
    · obtain ⟨record, p⟩ := x
      dsimp only at receiving
      rw [receiving] at hx
      exact absurd hx (on record)

theorem Ongoing.replyFault_kept {s : State} (h : Ongoing s) (lde : s.engine.lde = false)
    (phase : ∀ x, s.engine.exchange = some x → x.phase = .gap ∨ x.phase = .receiving) (detail : GarbledDetail) :
    Kept (s.replyFault detail) := by
  refine h.reply_kept lde phase (ends := State.replyFault detail) (fun record on => ?_) fun none => ?_
  · have done := h.completeExchange_kept on (outcome := .garbled detail) (data := []) (by simp) (by simp)
    simpa only [State.replyFault, on] using done
  · unfold State.replyFault
    split
    · next on => exact absurd on (none _)
    · rfl

theorem Ongoing.replyComplete_kept {s : State} (h : Ongoing s) (lde : s.engine.lde = false)
    (phase : ∀ x, s.engine.exchange = some x → x.phase = .gap ∨ x.phase = .receiving) (chars : List Byte) :
    Kept (s.replyComplete chars) := by
  refine h.reply_kept lde phase (ends := State.replyComplete chars) (fun record on => ?_) fun none => ?_
  · have done := h.completeExchange_kept on (outcome := record.classify chars)
      (data := if record.classify chars = .good then telegramPayload chars else [])
      (record.classify_ne_collision chars) fun kind good n length => by
        rw [if_pos good]
        have := ExchangeRecord.classify_good_poll kind good
        rw [show record.imageLength = some n from length] at this
        exact (Option.some.inj this).symm
    simpa only [State.replyComplete, on] using done
  · unfold State.replyComplete
    split
    · next on => exact absurd on (none _)
    · rfl

/-- While the framer is collecting, an exchange with LDE released is in GAP or RECEIVING. -/
theorem Running.phase_of_collecting {s : State} (h : Running s) {chars : List Byte}
    (collecting : s.engine.framer = .collecting chars) (lde : s.engine.lde = false) :
    ∀ x, s.engine.exchange = some x → x.phase = .gap ∨ x.phase = .receiving := by
  intro x on
  have lines := h.lines_on on
  cases phase : x.phase with
  | gap => exact .inl rfl
  | receiving => exact .inr rfl
  | sending elapsed ended paired => rw [phase] at lines; rw [lde] at lines; cases lines.1
  | await since seen => rw [phase] at lines; rw [collecting] at lines; cases lines.2.1
  | settle => rw [phase] at lines; rw [collecting] at lines; cases lines.2.1

theorem LineEngine.framing_iff (g : LineEngine) : g.framing = true ↔ g.lde = false ∧ g.lrxHeld = false := by
  simp [LineEngine.framing]

/-- R82: the start of a telegram, judged with the framer in its new state. -/
theorem Running.judgeStart_kept {s : State} (h : Running s) (ch : RxChar) (lde : s.engine.lde = false)
    (ready : s.engine.framer = .ready) :
    Kept (((s.hear ch.stop).setFramer
      (if ch.stop = .idle then .collecting [ch.data] else .skipping)).judgeStart ch) := by
  have fits : (if ch.stop = .idle then Framer.collecting [ch.data] else .skipping).fits = true := by split <;> rfl
  have base := (h.toOngoing.hear ch.stop).setFramer fits
  generalize hb : (s.hear ch.stop).setFramer (if ch.stop = .idle then .collecting [ch.data] else .skipping) = b at base
  have exchange : b.engine.exchange = s.engine.exchange := by rw [← hb]; rfl
  have lde' : b.engine.lde = false := by rw [← hb]; exact lde
  have framer : b.engine.framer = if ch.stop = .idle then .collecting [ch.data] else .skipping := by rw [← hb]; rfl
  unfold State.judgeStart
  rw [exchange]
  cases on : s.engine.exchange with
  | none =>
    rw [on] at exchange
    have lines : b.engine.linesFit = true := by simp [LineEngine.linesFit, exchange, lde']
    have idle := Running.idle ⟨base, lines⟩ exchange
    dsimp only
    split
    · next call =>
      simp only [Bool.and_eq_true, beq_iff_eq] at call
      exact idle.countContention.contentionRole_kept (.inl call.2) _
    · exact base.kept lines
  | some x =>
    rw [on] at exchange
    have lines := h.lines_on on
    cases phase : x.phase with
    | gap =>
      dsimp only
      simp only [phase]
      split
      · exact base.collide_kept exchange _
      · exact base.kept (by simp [LineEngine.linesFit, exchange, phase, lde'])
    | sending elapsed ended paired => rw [phase] at lines; rw [lde] at lines; cases lines.1
    | await since seen =>
      rw [phase] at lines
      obtain ⟨-, -, kind⟩ := lines
      dsimp only
      simp only [phase]
      split
      · exact base.completeExchange_kept exchange (by simp) (by simp)
      · next good =>
        split
        · have idle : ch.stop = .idle := by simpa using good
          exact base.setPhase_kept exchange (by simp)
            (by simp [LineEngine.linesFit, lde', framer, idle, Framer.isCollecting, kind])
        · exact base.collide_kept exchange _
    | receiving => rw [phase] at lines; rw [ready] at lines; cases lines.2.1
    | settle =>
      dsimp only
      simp only [phase]
      exact base.collide_kept exchange _

/-- R83: a character that fills the next position of a telegram. -/
theorem Running.collect_kept {s : State} (h : Running s) {chars : List Byte}
    (collecting : s.engine.framer = .collecting chars) (lde : s.engine.lde = false) {b : Byte}
    (inside : telegramCrcLowNext chars = false) (length : telegramLengthBad chars b = false) :
    Kept ((s.hear .idle).setFramer (.collecting (chars ++ [b]))) := by
  have fits : (Framer.collecting (chars ++ [b])).fits = true := by
    have before := h.framer
    rw [collecting] at before
    match chars, before, inside, length with
    | [], before, _, _ => cases before
    | [_], _, _, _ => rfl
    | [_, _], _, _, length =>
      simp [telegramLengthBad] at length
      simp [Framer.fits]
      omega
    | _ :: _ :: l :: rest, before, inside, _ =>
      simp [Framer.fits] at before ⊢
      simp [telegramCrcLowNext] at inside
      omega
  refine ((h.toOngoing.hear .idle).setFramer fits).kept (LineEngine.linesFit_of_collecting lde rfl fun x on => ?_)
  have lines := h.lines_on on
  rcases h.phase_of_collecting collecting lde x on with gap | receiving
  · exact .inl gap
  · rw [receiving] at lines
    exact .inr ⟨receiving, lines.2.2⟩

/-- R81: the framer becomes READY. -/
theorem Running.framerReady_kept {s : State} (h : Running s) (lde : s.engine.lde = false)
    (skipping : s.engine.framer = .skipping) : Kept (s.setFramer .ready) := by
  refine (h.toOngoing.setFramer (f := .ready) rfl).kept (LineEngine.linesFit_of_released lde fun x on => ?_)
  have lines := h.lines_on on
  cases phase : x.phase with
  | gap => rfl
  | sending elapsed ended paired => rw [phase] at lines; rw [lde] at lines; cases lines.1
  | await since seen => rw [phase] at lines; rw [skipping] at lines; cases lines.2.1
  | receiving => rw [phase] at lines; rw [skipping] at lines; cases lines.2.1
  | settle => rw [phase] at lines; rw [skipping] at lines; cases lines.2.1

/-! ### Reset (R183 to R186) -/

theorem StationsOk.reset {s : State} (h : ∀ a, s.station a = Station.reset) : StationsOk s := fun a => by
  rw [h a]; exact Station.reset_fits

theorem State.station_afterReset (cause : ResetCause) (hrxLow : Bool) (waiting : List Instr) (a : Addr) :
    (State.afterReset cause hrxLow waiting).station a = Station.reset := by
  simp [State.station, State.afterReset]

theorem afterReset_kept (cause : ResetCause) (hrxLow : Bool) (waiting : List Instr) :
    Kept (State.afterReset cause hrxLow waiting) := by
  have stations := State.station_afterReset cause hrxLow waiting
  refine .of_timed (.reset stations) ?_ ?_
  · exact (timed_of_idle rfl).2 fun a => by rw [stations]; exact Station.reset_dueRight
  · exact (lined_of_idle rfl).2 ⟨by simp [State.afterReset, LineEngine.reset], rfl, rfl, by
      simp [State.afterReset, Fallback.reset], rfl, rfl⟩

/-- Held in reset the timetable and the line statements say nothing. -/
theorem kept_of_held {s t : State} (h : StationsOk s) (stations : t.stations = s.stations) (held : t.held = true) :
    Kept t :=
  ⟨h.of_stations stations, fun run => (Bool.false_ne_true (run.symm.trans held)).elim,
    fun run => (Bool.false_ne_true (run.symm.trans held)).elim⟩

theorem Running.responseGone_kept {s : State} (h : Running s) : Kept s.responseGone := by
  unfold State.responseGone
  split
  · exact afterReset_kept _ _ _
  · exact (h.congr (t := s.withUnit fun u => { u with responseSlot := none }) rfl rfl rfl rfl rfl).takeReady_kept

/-- R158, R159: the notice of an acknowledgement. -/
theorem Running.ackFrame_kept {s : State} (h : Running s) (q : Byte) : Kept (s.applyAck q).goodFrame := by
  refine h.goodFrame.kept.congr (by simp) (by simp) ?_ (by simp)
  rw [State.goodFrame_eq, State.goodFrame_eq]
  simp

end Sys2Proof.Machine
end

section
/-!
SUPPORT. Every step keeps the stations, the timetable and the line.
-/

namespace Sys2Proof.Machine

/-! ### Every row -/

theorem DeviceOk.kept {s : State} (h : DeviceOk s) : Kept s := ⟨h.1, h.2.1, h.2.2.1⟩

/-- R186: a row is nothing in reset, and outside reset a change of a running device. -/
theorem whenRunning_kept {s : State} (h : DeviceOk s) {f : State → State} (keeps : Running s → Kept (f s)) :
    Kept (whenRunning f s) := by
  cases held : s.held with
  | true => rw [whenRunning_of_held held]; exact h.kept
  | false => rw [whenRunning_of_running held]; exact keeps (h.running held)

/-- The rows of the host side leave the stations, the Line Engine and the fallback. -/
theorem Running.kept_of_hostSide {s t : State} (h : Running s) (stations : t.stations = s.stations)
    (engine : t.engine = s.engine) (fallback : t.fallback = s.fallback) (power : t.power = s.power) : Kept t :=
  h.kept.congr stations engine fallback (by simp [State.held, power])

theorem Running.receiveCommand_kept {s : State} (h : Running s) (f : CommandFrame) : Kept (s.receiveCommand f) := by
  unfold State.receiveCommand
  split
  · exact h.offer_kept f
  · exact h.kept

theorem hostCommand_kept {s : State} (h : DeviceOk s) (name : CommandName) (seq : Byte) (params : List Byte) :
    Kept (hostCommand name seq params s) :=
  whenRunning_kept h fun run => run.receiveCommand_kept _

/-- BREAK (R169, R170): a response stopped counts as delivered. -/
theorem execLineBreak_kept {s : State} (h : DeviceOk s) : ∃ t, execLineBreak s = .next t ∧ Kept t := by
  refine ⟨_, rfl, ?_⟩
  cases held : s.held with
  | true => exact h.kept.congr rfl rfl rfl rfl
  | false =>
    have run := h.running held
    have broken : Running (s.withHost HostLink.break) := run.congr rfl rfl rfl rfl rfl
    simp only [Bool.false_eq_true, if_false]
    split
    · split
      · exact broken.responseGone_kept
      · exact broken.kept
    · exact run.kept

/-- The rows of NRST and of the supply (R183, R184). -/
theorem exec_reset_kept {s : State} (h : DeviceOk s) :
    (∃ t, execNrstAssert s = .next t ∧ Kept t) ∧ (∃ t, execNrstRelease s = .next t ∧ Kept t) ∧
      (∃ t, execPowerUp s = .next t ∧ Kept t) ∧ ∃ t, execSupplyFail s = .next t ∧ Kept t := by
  refine ⟨⟨_, rfl, ?_⟩, ⟨_, rfl, ?_⟩, ⟨_, rfl, ?_⟩, ⟨_, rfl, ?_⟩⟩
  · split
    · exact h.kept
    · exact kept_of_held h.1 rfl rfl
  · split
    · split
      · exact afterReset_kept _ _ _
      · next supply => exact kept_of_held h.1 rfl (by simpa [State.held] using supply)
    · exact h.kept
  · split
    · exact h.kept
    · split
      · next low => exact kept_of_held h.1 rfl (by simp [State.held, low])
      · exact afterReset_kept _ _ _
  · split
    · exact kept_of_held h.1 rfl (by simp [State.held])
    · exact h.kept

/-- Every command and event keeps the stations, the timetable and the line. -/
theorem exec_kept {s : State} (h : DeviceOk s) (i : Instr) : ∃ t, exec i s = .next t ∧ Kept t := by
  obtain ⟨nrstAssert, nrstRelease, powerUp, supplyFail⟩ := exec_reset_kept h
  cases i with
  | identify seq params => exact ⟨_, rfl, hostCommand_kept h .identify seq params⟩
  | status seq params => exact ⟨_, rfl, hostCommand_kept h .status seq params⟩
  | restart seq params => exact ⟨_, rfl, hostCommand_kept h .restart seq params⟩
  | linkSetup seq params => exact ⟨_, rfl, hostCommand_kept h .linkSetup seq params⟩
  | fallbackSet seq params => exact ⟨_, rfl, hostCommand_kept h .fallbackSet seq params⟩
  | lineSetup seq params => exact ⟨_, rfl, hostCommand_kept h .lineSetup seq params⟩
  | lineStart seq params => exact ⟨_, rfl, hostCommand_kept h .lineStart seq params⟩
  | lineStop seq params => exact ⟨_, rfl, hostCommand_kept h .lineStop seq params⟩
  | lineResume seq params => exact ⟨_, rfl, hostCommand_kept h .lineResume seq params⟩
  | enrol seq params => exact ⟨_, rfl, hostCommand_kept h .enrol seq params⟩
  | modify seq params => exact ⟨_, rfl, hostCommand_kept h .modify seq params⟩
  | park seq params => exact ⟨_, rfl, hostCommand_kept h .park seq params⟩
  | release seq params => exact ⟨_, rfl, hostCommand_kept h .release seq params⟩
  | stationQuery seq params => exact ⟨_, rfl, hostCommand_kept h .stationQuery seq params⟩
  | roster seq params => exact ⟨_, rfl, hostCommand_kept h .roster seq params⟩
  | put seq params => exact ⟨_, rfl, hostCommand_kept h .put seq params⟩
  | get seq params => exact ⟨_, rfl, hostCommand_kept h .get seq params⟩
  | broadcast seq params => exact ⟨_, rfl, hostCommand_kept h .broadcast seq params⟩
  | cancel seq params => exact ⟨_, rfl, hostCommand_kept h .cancel seq params⟩
  | queueQuery seq params => exact ⟨_, rfl, hostCommand_kept h .queueQuery seq params⟩
  | cachedResponse seq body =>
    refine ⟨_, rfl, whenRunning_kept h fun run => ?_⟩
    split
    · exact run.receiveCommand_kept _
    · exact run.kept
  | commandCodeUnknown seq body =>
    refine ⟨_, rfl, whenRunning_kept h fun run => ?_⟩
    split
    · exact run.receiveCommand_kept _
    · exact run.kept
  | strayByte _ | badLength _ | brokenFrame _ | framePauseTimeout | crcError _ | responseFrameBegin | reportFrameBegin
  | reportFrameEnd | ackTimerExpiry | leadByte | frameByte _ =>
    refine ⟨_, rfl, whenRunning_kept h fun run => ?_⟩
    repeat' split
    all_goals exact run.kept_of_hostSide rfl rfl rfl rfl
  | commandFrame b =>
    refine ⟨_, rfl, whenRunning_kept h fun run => ?_⟩
    repeat' split
    · exact run.kept
    · exact run.offer_kept _
    · exact run.kept
  | ackFrame b =>
    refine ⟨_, rfl, whenRunning_kept h fun run => ?_⟩
    repeat' split
    · exact run.kept
    · exact run.ackFrame_kept _
    · exact run.kept
  | unknownKindFrame b =>
    refine ⟨_, rfl, whenRunning_kept h fun run => ?_⟩
    repeat' split
    · exact run.kept
    · exact (run.congr (t := s.withHostCounters fun c => { c with strayBytes := satInc c.strayBytes })
        rfl rfl rfl rfl rfl).goodFrame.kept
    · exact run.kept
  | lineBreak => exact execLineBreak_kept h
  | responseDelivered =>
    refine ⟨_, rfl, whenRunning_kept h fun run => ?_⟩
    repeat' split
    · exact run.kept
    · exact (run.congr (t := s.withHost fun g => HostLink.switchRate { g with tx := none })
        rfl rfl rfl rfl rfl).responseGone_kept
    · exact run.kept
  | deadlineExpiry tag =>
    refine ⟨_, rfl, whenRunning_kept h fun run => ?_⟩
    repeat' split
    · exact run.kept
    · exact run.deadlineExpiry_kept tag
    · exact run.kept
  | dueTimeReached a =>
    refine ⟨_, rfl, whenRunning_kept h fun run => ?_⟩
    split
    · exact run.kept
    · next d due =>
      split
      · exact (run.toScheduled.markDue due _).select_kept (run.lined.congr rfl rfl)
      · exact run.kept
  | latenessSaturated which =>
    refine ⟨_, rfl, whenRunning_kept h fun run => ?_⟩
    split
    · split
      · exact run.kept
      · next d due =>
        split
        · have marked := run.toScheduled.markDue due d.saturate
          exact .of_timed marked.stations marked.timed (run.lined.congr rfl rfl)
        · exact run.kept
    · exact run.saturateAnchor_kept
  | sendStart => exact ⟨_, rfl, whenRunning_kept h fun run => run.tryStart_kept⟩
  | callCharacterSent =>
    refine ⟨_, rfl, whenRunning_kept h fun run => ?_⟩
    split
    · next on =>
      split
      · next more => exact run.characterSent_kept on more.1
      · exact run.kept
    · exact run.kept
  | echoReceived ch =>
    refine ⟨_, rfl, whenRunning_kept h fun run => ?_⟩
    split
    · next on =>
      split
      · exact run.kept
      · exact run.echo_kept on ch
    · exact run.kept
  | echoTimeout =>
    refine ⟨_, rfl, whenRunning_kept h fun run => ?_⟩
    split
    · next on =>
      split
      · exact run.collide_kept on _
      · exact run.kept
    · exact run.kept
  | replyTimeout =>
    refine ⟨_, rfl, whenRunning_kept h fun run => ?_⟩
    split
    · next on =>
      split
      · exact run.completeExchange_kept on (by simp) (by simp)
      · exact run.kept
    · exact run.kept
  | telegramStart ch =>
    refine ⟨_, rfl, whenRunning_kept h fun run => ?_⟩
    split
    · next starts =>
      simp only [Bool.and_eq_true, LineEngine.framing_iff, beq_iff_eq] at starts
      exact run.judgeStart_kept ch starts.1.1 starts.2
    · exact run.kept
  | telegramCharacter b =>
    refine ⟨_, rfl, whenRunning_kept h fun run => ?_⟩
    split
    · next chars collecting =>
      split
      · next fills =>
        simp only [Bool.and_eq_true, LineEngine.framing_iff, Bool.not_eq_true'] at fills
        exact run.collect_kept collecting fills.1.1.1 fills.1.2 fills.2
      · exact run.kept
    · exact run.kept
    · exact run.kept
  | telegramFault ch =>
    refine ⟨_, rfl, whenRunning_kept h fun run => ?_⟩
    split
    · next chars collecting =>
      split
      · next fault =>
        simp only [Bool.and_eq_true, LineEngine.framing_iff] at fault
        exact ((run.toOngoing.hear ch.stop).setFramer (f := .skipping) rfl).replyFault_kept fault.1.1
          (run.phase_of_collecting collecting fault.1.1) _
      · exact run.kept
    · exact run.kept
    · exact run.kept
  | telegramPauseTimeout =>
    refine ⟨_, rfl, whenRunning_kept h fun run => ?_⟩
    split
    · next chars collecting =>
      split
      · next pause =>
        simp only [Bool.and_eq_true, LineEngine.framing_iff] at pause
        exact (run.toOngoing.setFramer (f := if s.engine.gapReached then .ready else .skipping)
          (by split <;> rfl)).replyFault_kept pause.1.1 (run.phase_of_collecting collecting pause.1.1) _
      · exact run.kept
    · exact run.kept
    · exact run.kept
  | telegramComplete b =>
    refine ⟨_, rfl, whenRunning_kept h fun run => ?_⟩
    split
    · next chars collecting =>
      split
      · next complete =>
        simp only [Bool.and_eq_true, LineEngine.framing_iff] at complete
        exact ((run.toOngoing.hear .idle).setFramer (f := .skipping) rfl).replyComplete_kept complete.1.1
          (run.phase_of_collecting collecting complete.1.1) _
      · exact run.kept
    · exact run.kept
    · exact run.kept
  | trailingCharacter ch =>
    refine ⟨_, rfl, whenRunning_kept h fun run => ?_⟩
    split
    · exact (run.hear ch.stop).kept
    · exact run.kept
  | framerGapReached =>
    refine ⟨_, rfl, whenRunning_kept h fun run => ?_⟩
    split
    · next reached =>
      simp only [Bool.and_eq_true, LineEngine.framing_iff, beq_iff_eq] at reached
      exact run.framerReady_kept reached.1.1.1 reached.1.2
    · exact run.kept
  | lrxIdleReturn =>
    refine ⟨_, rfl, whenRunning_kept h fun run => ?_⟩
    split
    · exact (run.withEngine rfl rfl run.framer run.lines).kept
    · exact run.kept
  | broadcastSettled =>
    refine ⟨_, rfl, whenRunning_kept h fun run => ?_⟩
    split
    · next on =>
      split
      · exact run.completeExchange_kept on (by simp) (by simp)
      · exact run.kept
    · exact run.kept
  | silenceTimerExpiry =>
    refine ⟨_, rfl, whenRunning_kept h fun run => ?_⟩
    split
    · exact run.kept
    · next start running =>
      split
      · exact run.silenceExpired_kept running
      · exact run.kept
  | nrstAssert => exact nrstAssert
  | nrstRelease => exact nrstRelease
  | powerUp => exact powerUp
  | supplyFail => exact supplyFail
  | hrxIdleReturn => exact ⟨_, rfl, h.kept.congr rfl rfl rfl rfl⟩
  | startBitConfirmed =>
    refine ⟨_, rfl, whenRunning_kept h fun run => ?_⟩
    split
    · exact run.mapPhase_kept Phase.startBit_shape rfl rfl rfl rfl rfl rfl
    · exact run.kept
  | lineQuietSaturated =>
    refine ⟨_, rfl, whenRunning_kept h fun run => ?_⟩
    split
    · exact (run.withEngine rfl rfl run.framer run.lines).kept
    · exact run.kept

theorem elapse_kept {s : State} (h : DeviceOk s) (n : Nat) : Kept (s.elapse n) := by
  cases held : s.held with
  | true =>
    have same : s.elapse n = s := by simp [State.elapse, held]
    rw [same]; exact h.kept
  | false =>
    have passed : s.elapse n =
        { s with
          clock := msAfter s.clock ((s.subMs + n) / Config.cyclesPerMs)
          subMs := (s.subMs + n) % Config.cyclesPerMs
          engine :=
            { s.engine with
              quiet := addCycles n s.engine.quiet
              exchange := s.engine.exchange.map fun x => { x with phase := x.phase.elapse n } }
          host :=
            { s.host with
              hrx := s.host.hrx.elapse n
              tx := s.host.tx.map fun t => { t with elapsed := addCycles n t.elapsed } } } := by
      simp [State.elapse, held]
    rw [passed]
    exact (h.running held).mapPhase_kept (Phase.elapse_shape n) rfl rfl rfl rfl rfl rfl

/-- Every step keeps the stations, the timetable and the line. -/
theorem step_kept {s t : State} (h : DeviceOk s) (run : step s = .next t) : Kept t := by
  unfold step at run
  split at run
  · cases run
    exact elapse_kept h 1
  · next c rest _ =>
    obtain ⟨u, next, kept⟩ := exec_kept (s := { s with pending := rest }) h c
    rw [next] at run
    cases run
    exact kept

/-- Settles O57: no row takes an entry out of its ranges. -/
theorem everyStepKeepsStationsInRange : Obligations.EveryStepKeepsStationsInRange :=
  fun _ _ ok run => (step_kept ok run).stations

/-- Settles O58: no row takes the line or the timetable out of agreement. -/
theorem everyStepKeepsLineAndTimetable : Obligations.EveryStepKeepsLineAndTimetable :=
  fun _ _ ok run => ⟨(step_kept ok run).line, (step_kept ok run).timetable⟩

end Sys2Proof.Machine
end

section
/-!
SUPPORT. Parts and ranges of a body, and ENROL.
-/

namespace Sys2Proof.Machine

/-! ### A command's answer as its row gives it (R172, R173, R176) -/

section Row

variable {s₀ s t : State} {seq : Byte} {name : CommandName} {params : List Byte} {status : Status}

theorem exec_refused (h : s₀.takes seq s) (refused : s.perform name params = refuse status s) :
    exec (name.row seq params) s₀ = .next (s.respond ⟨seq, [name.code, status.code]⟩) := by
  rw [exec_row_eq name seq params h, refused]
  rfl

theorem exec_accepted (h : s₀.takes seq s) (accepted : s.perform name params = accept t) :
    exec (name.row seq params) s₀ = .next (t.respond ⟨seq, [name.code, 0x00#8]⟩) := by
  rw [exec_row_eq name seq params h, accepted]
  rfl

theorem exec_shown {data : List Byte} (h : s₀.takes seq s) (shown : s.perform name params = ⟨.ok, data, s⟩) :
    exec (name.row seq params) s₀ = .next (s.respond ⟨seq, name.code :: 0x00#8 :: data⟩) := by
  rw [exec_row_eq name seq params h, shown]
  rfl

end Row

section Checked

variable {ρ π : Type} {layout : List Byte → Option ρ} {range : ρ → Option π} {carry : π → State → Answer}
  {params : List Byte} {s : State} {raw : ρ} {p : π}

theorem checked_outOfRange (parts : layout params = some raw) (out : range raw = none) :
    checked layout range carry params s = refuse .outOfRange s := by
  simp only [checked, parts, out]

theorem checked_carried (parts : layout params = some raw) (inside : range raw = some p) :
    checked layout range carry params s = carry p s := by
  simp only [checked, parts, inside]

end Checked

/-! ### Parts of a body (R174, R197) -/

theorem readCounted_cons {n : Byte} {part : List Byte} (length : part.length = n.toNat) (rest : List Byte) :
    readCounted (n :: (part ++ rest)) = some (part, rest) := by
  simp [readCounted, readBytes, ← length]

/-- R174: a part behind its presence flag. -/
def optionalPart : Option (List Byte) → List Byte
  | none => [0#8]
  | some bytes => 1#8 :: bytes

/-- A part that is read back whatever stands behind it is read back behind its flag. -/
theorem readOptional_part {α : Type} {part : List Byte → Option (α × List Byte)} {bytes : α → List Byte}
    (reads : ∀ x rest, part (bytes x ++ rest) = some (x, rest)) (value : Option α) (rest : List Byte) :
    readOptional part (optionalPart (value.map bytes) ++ rest) = some (value, rest) := by
  cases value with
  | none => rfl
  | some x => simp [readOptional, optionalPart, reads]

theorem readByte_single (b : Byte) (rest : List Byte) : readByte ([b] ++ rest) = some (b, rest) := rfl

theorem halfOf_halfBytes (h : Half) : halfOf (h.extractLsb' 8 8) (h.extractLsb' 0 8) = h := by
  have := h.isLt
  apply BitVec.eq_of_toNat_eq
  rw [halfOf_toNat]
  simp only [BitVec.extractLsb'_toNat, Nat.shiftRight_eq_div_pow]
  omega

theorem readHalf_halfBytes (h : Half) (rest : List Byte) : readHalf (halfBytes h ++ rest) = some (h, rest) := by
  simp [readHalf, halfBytes, halfOf_halfBytes]

/-- The bytes of an identity. -/
def Identity.bytes (i : Identity) : List Byte := halfBytes i.typeCode ++ [i.revision]

theorem readIdentity_bytes (i : Identity) (rest : List Byte) : readIdentity (i.bytes ++ rest) = some (i, rest) := by
  simp [readIdentity, Identity.bytes, halfBytes, halfOf_halfBytes]

/-! ### Values in range (R175) -/

theorem addrOfByte?_eq_some {b : Byte} {a : Addr} : addrOfByte? b = some a ↔ b.toNat = a.val + 1 := by
  constructor
  · intro h
    unfold addrOfByte? at h
    split at h
    · cases h; simp; omega
    · cases h
  · exact addrOfByte?_some

theorem addrOfByte?_eq_none {b : Byte} : addrOfByte? b = none ↔ b.toNat = 0 ∨ 31 < b.toNat := by
  unfold addrOfByte?
  split <;> simp <;> omega

theorem ReportMode.ofCode?_eq (c : Byte) :
    ReportMode.ofCode? c = [ReportMode.changes, .every, .silent][c.toNat]? := by
  revert c; decide

theorem rangeMask_eq_some {n : Nat} {mask : List Byte} {given : Option (List Byte)} :
    rangeMask n mask = some given ↔
      (mask = [] ∨ mask.length = n) ∧ given = if mask = [] then none else some mask := by
  cases mask with
  | nil => simp [rangeMask, eq_comm]
  | cons b rest => simp [rangeMask, eq_comm]

theorem checkOptional_eq_some {α β : Type} {check : α → Option β} {x : Option α} {given : Option β} :
    checkOptional check x = some given ↔ (∀ b, x = some b → (check b).isSome = true) ∧ given = x.bind check := by
  cases x with
  | none => simpa [checkOptional] using eq_comm
  | some b => cases hb : check b <;> simp [checkOptional, hb]; exact eq_comm

theorem inRange_isSome {lo hi n : Nat} : (inRange lo hi n).isSome = true ↔ lo ≤ n ∧ n ≤ hi := by
  unfold inRange
  split <;> simp [*]

/-- An optional value in range is its number. -/
theorem bind_inRange {α : Type} {lo hi : Nat} {value : α → Nat} {x : Option α}
    (range : ∀ b, x = some b → lo ≤ value b ∧ value b ≤ hi) :
    (x.bind fun b => inRange lo hi (value b)) = x.map value := by
  cases given : x with
  | none => rfl
  | some b => simp [inRange, range b given]

/-! ### ENROL (R4, R5, R175, R197) -/

theorem layoutEnrol_parts {address level p1 p0 length mode n : Byte} {mask : List Byte} (limit : Option Byte)
    (expected : Option Identity) (counted : mask.length = n.toNat) :
    layoutEnrol
        ([address, level, p1, p0, length, mode, n] ++ mask ++ optionalPart (limit.map fun b => [b]) ++
          optionalPart (expected.map Identity.bytes)) =
      some ⟨address, level, halfOf p1 p0, length, mode, mask, limit, expected⟩ := by
  have last := readOptional_part (bytes := Identity.bytes) readIdentity_bytes expected []
  rw [List.append_nil] at last
  simp [layoutEnrol, readByte, readHalf, readCounted_cons counted, readOptional_part readByte_single, last, atEnd]

/-- R4, R175: the ranges of an ENROL, and what it then asks for. -/
theorem rangeEnrol_eq_some {raw : RawEnrol} {p : EnrolParams} :
    rangeEnrol raw = some p ↔
      raw.address.toNat = p.address.val + 1 ∧ (raw.level.toNat ≤ 7 ∧ p.level = raw.level.toNat) ∧
      ((10 ≤ raw.period.toNat ∧ raw.period.toNat ≤ 60000) ∧ p.period = raw.period.toNat) ∧
      ((1 ≤ raw.imageLength.toNat ∧ raw.imageLength.toNat ≤ 16) ∧ p.imageLength = raw.imageLength.toNat) ∧
      [ReportMode.changes, .every, .silent][raw.reportMode.toNat]? = some p.reportMode ∧
      ((raw.watchMask = [] ∨ raw.watchMask.length = raw.imageLength.toNat) ∧
        p.watchMask = if raw.watchMask = [] then none else some raw.watchMask) ∧
      ((∀ b, raw.missLimit = some b → 1 ≤ b.toNat ∧ b.toNat ≤ 15) ∧
        p.missLimit = raw.missLimit.map fun b => b.toNat) ∧ p.expected = raw.expected := by
  have limit : (∀ b, raw.missLimit = some b → 1 ≤ b.toNat ∧ b.toNat ≤ 15) →
      raw.missLimit.bind rangeMissLimit = raw.missLimit.map fun b => b.toNat := bind_inRange
  simp only [rangeEnrol, Option.bind_eq_bind, Option.bind_eq_some_iff, Option.some.injEq, inRange_some,
    addrOfByte?_eq_some, ReportMode.ofCode?_eq, rangeMask_eq_some, checkOptional_eq_some, rangeMissLimit,
    inRange_isSome]
  constructor
  · rintro ⟨a, ha, l, hl, n, hn, m, hm, mode, hmode, mask, hmask, given, hgiven, rfl⟩
    obtain ⟨rfl, hl⟩ := hl
    obtain ⟨rfl, hn⟩ := hn
    obtain ⟨rfl, hm⟩ := hm
    exact ⟨ha, ⟨hl.2, rfl⟩, ⟨hn, rfl⟩, ⟨hm, rfl⟩, hmode, hmask, ⟨hgiven.1, hgiven.2.trans (limit hgiven.1)⟩, rfl⟩
  · rintro ⟨ha, ⟨hl, el⟩, ⟨hn, en⟩, ⟨hm, em⟩, hmode, ⟨hmask, emask⟩, ⟨hlimit, elimit⟩, eexpected⟩
    refine ⟨_, ha, _, ⟨rfl, Nat.zero_le _, hl⟩, _, ⟨rfl, hn⟩, _, ⟨rfl, hm⟩, _, hmode, _, ⟨hmask, rfl⟩, _,
      ⟨hlimit, rfl⟩, ?_⟩
    rw [limit hlimit]
    cases p
    simp_all

/-- R5: the entry of a station enrolled, field by field. -/
theorem Station.enrolled_eq (now : Clock) (p : EnrolParams) (mask : List Byte)
    (given : p.watchMask = if mask = [] then none else some mask) :
    Station.enrolled now p =
      { state := .probing
        level := p.level
        period := p.period
        imageLength := p.imageLength
        watchMask := if mask = [] then List.replicate p.imageLength 0xFF#8 else mask
        reportMode := p.reportMode
        missLimit := p.missLimit.getD 3
        missCount := 0
        expected := p.expected
        identity := none
        image := none
        reportedImage := none
        toggle := false
        nextDue := some ⟨now, true, false⟩
        goodExchanges := 0
        missedExchanges := 0
        pollOverruns := 0
        probeMisses := 0
        lastFault := none } := by
  unfold Station.enrolled
  rw [given]
  split <;> rfl

/-- Settles O16: the body is read part by part, judged range by range, and carried out on a VACANT or PARKED entry. -/
theorem enrolStartsTheStationAfresh : Obligations.EnrolStartsTheStationAfresh := by
  intro s₀ s seq address level p1 p0 length mode n mask params limit expected period inRange takes counted periodEq
    body range
  have layout : layoutEnrol params = some ⟨address, level, halfOf p1 p0, length, mode, mask, limit, expected⟩ := by
    rw [← layoutEnrol_parts limit expected counted, body]
    cases limit <;> cases expected <;> rfl
  have periodNat : (halfOf p1 p0).toNat = period := by rw [halfOf_toNat, periodEq]
  constructor
  · intro out
    have refused : rangeEnrol ⟨address, level, halfOf p1 p0, length, mode, mask, limit, expected⟩ = none := by
      rw [Option.eq_none_iff_forall_ne_some]
      intro p hp
      obtain ⟨ha, ⟨hl, -⟩, ⟨hn, -⟩, ⟨hm, -⟩, hmode, ⟨hmask, -⟩, ⟨hlimit, -⟩, -⟩ := rangeEnrol_eq_some.1 hp
      dsimp only at ha hl hn hm hmode hmask hlimit
      rw [periodNat] at hn
      have hmode : mode.toNat ≤ 2 := by
        obtain ⟨inside, -⟩ := List.getElem?_eq_some_iff.1 hmode
        simpa using Nat.le_of_lt_succ inside
      have := p.address.isLt
      exact out (range.2 ⟨by omega, by omega, hl, hn.1, hn.2, hm.1, hm.2, hmode, hmask, hlimit⟩)
    exact exec_refused (name := .enrol) takes (checked_outOfRange layout refused)
  · intro a reportMode inside ha hmode
    obtain ⟨-, -, hl, hn1, hn2, hm1, hm2, -, hmask, hlimit⟩ := range.1 inside
    have asked : rangeEnrol ⟨address, level, halfOf p1 p0, length, mode, mask, limit, expected⟩ =
        some ⟨a, level.toNat, period, length.toNat, reportMode, if mask = [] then none else some mask,
          limit.map fun b => b.toNat, expected⟩ :=
      rangeEnrol_eq_some.2 ⟨ha, ⟨hl, rfl⟩, ⟨by rw [periodNat]; exact ⟨hn1, hn2⟩, periodNat.symm⟩,
        ⟨⟨hm1, hm2⟩, rfl⟩, hmode, ⟨hmask, rfl⟩, ⟨hlimit, rfl⟩, rfl⟩
    have carried := checked_carried (carry := State.enrolStation) (s := s) layout asked
    constructor
    · intro free
      refine exec_accepted (name := .enrol) takes (carried.trans ?_)
      rw [← Station.enrolled_eq s.clock ⟨a, level.toNat, period, length.toNat, reportMode,
        if mask = [] then none else some mask, limit.map fun b => b.toNat, expected⟩ mask rfl]
      unfold State.enrolStation
      rcases free with free | free <;> simp only [free]
    · intro notVacant notParked
      refine exec_refused (name := .enrol) (status := .alreadyEnrolled) takes (carried.trans ?_)
      unfold State.enrolStation
      dsimp only
      cases state : (s.station a).state with
      | vacant => exact absurd state notVacant
      | parked => exact absurd state notParked
      | _ => rfl

end Sys2Proof.Machine
end

section
/-!
SUPPORT. PARK, RELEASE and the queries.
-/

namespace Sys2Proof.Machine

/-! ### PARK and RELEASE (R12, R13, R48, R110) -/

theorem layoutAddress_single (b : Byte) : layoutAddress [b] = some b := rfl

/-- R12, R13: what a station taken off the line leaves of the device. -/
theorem State.takeOff_parts {s : State} (nodup : (s.requests.map fun r => r.tag).Nodup) (a : Addr) (e : Station)
    (response : Response) :
    ∃ t, t = State.respond response (((s.setStation a e).removeWaiting a .cancelled).withEngine (LineEngine.orphan a)) ∧
      t.station a = e ∧ (∀ c, c ≠ a → t.station c = s.station c) ∧
      t.requests = (s.requests.map fun r =>
        if r.state = .waiting ∧ r.station = some a then { r with state := .reported } else r) ∧
      t.engine = s.engine.orphan a ∧
      t.reports.queue = s.reports.queue ++ ((s.requests.filter fun r =>
        r.state == .waiting && r.station == some a).map fun r =>
          ⟨.result r.tag r.kind .cancelled r.attempts r.lastOutcome [], .unsent⟩) ∧
      t.unit.responseSlot = some response ∧ t.fallback = s.fallback ∧ t.clock = s.clock := by
  refine ⟨_, rfl, by simp, fun c other => by simp [State.station_setStation, other], ?_, by simp, ?_, rfl, by simp,
    by simp⟩
  · rw [State.removeWaiting_eq (by simpa using nodup)]
    rfl
  · rw [State.removeWaiting_eq (by simpa using nodup)]
    rfl

/-- Settles O19: both take the entry, the waiting requests and an exchange of the station off the line. -/
theorem parkAndReleaseTakeTheStationOff : Obligations.ParkAndReleaseTakeTheStationOff := by
  intro s₀ s seq b a orphaned takes address nodup exchange
  have known : addrOfByte? b = some a := addrOfByte?_some address
  have engine : s.engine.orphan a = { s.engine with exchange := orphaned } := by rw [exchange]; rfl
  have park : s.perform .park [b] = s.parkStation a := checked_carried (layoutAddress_single b) known
  have release : s.perform .release [b] = s.releaseStation a := checked_carried (layoutAddress_single b) known
  refine ⟨fun vacant => ⟨?_, ?_⟩, fun parked => ?_, fun notVacant notParked => ?_, fun notVacant => ?_⟩
  · refine exec_refused (name := .park) (status := .notEnrolled) takes (park.trans ?_)
    simp only [State.parkStation, vacant]
  · refine exec_refused (name := .release) (status := .notEnrolled) takes (release.trans ?_)
    simp only [State.releaseStation, vacant]
  · refine exec_accepted (name := .park) takes (park.trans ?_)
    simp only [State.parkStation, parked]
  · have off : s.parkStation a = accept (((s.setStation a (s.station a).parked).removeWaiting a .cancelled).withEngine
        (LineEngine.orphan a)) := by
      unfold State.parkStation
      cases state : (s.station a).state with
      | vacant => exact absurd state notVacant
      | parked => exact absurd state notParked
      | _ => rfl
    obtain ⟨t, eq, parts⟩ := State.takeOff_parts nodup a (s.station a).parked ⟨seq, [0x32#8, 0x00#8]⟩
    rw [engine] at parts
    exact ⟨t, by rw [eq]; exact exec_accepted (name := .park) takes (park.trans off), parts⟩
  · have off : s.releaseStation a = accept (((s.setStation a Station.reset).removeWaiting a .cancelled).withEngine
        (LineEngine.orphan a)) := by
      unfold State.releaseStation
      cases state : (s.station a).state with
      | vacant => exact absurd state notVacant
      | _ => rfl
    obtain ⟨t, eq, parts⟩ := State.takeOff_parts nodup a Station.reset ⟨seq, [0x33#8, 0x00#8]⟩
    rw [engine] at parts
    exact ⟨t, by rw [eq]; exact exec_accepted (name := .release) takes (release.trans off), parts⟩

/-! ### STATION_QUERY, ROSTER and QUEUE_QUERY (R15, R16, R52, R198) -/

theorem identityBytes_length (i : Option Identity) : (identityBytes i).length = 4 := by
  cases i <;> rfl

theorem dueBytes_length (d : Option DueTime) : (dueBytes d).length = 5 := by
  cases d <;> rfl

theorem lastFaultBytes_length (f : Option LastFault) : (lastFaultBytes f).length = 8 := by
  cases f <;> rfl

theorem imageBytes_length {n : Nat} {image : Option (List Byte)} (length : ∀ bytes ∈ image, bytes.length = n) :
    (imageBytes n image).length = n + 1 := by
  cases image with
  | none => simp [imageBytes, zeroBytes]
  | some bytes => simp [imageBytes, length bytes rfl]

/-- R198: the record of an entry within its ranges. -/
theorem stationData_length {e : Station} (h : e.fits) (a : Addr) :
    (stationData a e).length = 41 + 3 * e.imageLength := by
  obtain ⟨-, -, -, -, -, -, -, mask, image, reported, -⟩ := h
  simp only [stationData, List.length_append, List.length_cons, List.length_nil, identityBytes_length,
    dueBytes_length, lastFaultBytes_length, imageBytes_length image, imageBytes_length reported, mask, halfBytes]
  omega

/-- Settles O20: the record is the entry's, and the query changes nothing. -/
theorem stationQueryShowsTheEntry : Obligations.StationQueryShowsTheEntry := by
  intro s₀ s seq b a e record takes entry hrecord
  subst entry
  refine ⟨fun address => ?_, fun outside => ?_⟩
  · have shown : record = stationData a (s.station a) := by
      rw [hrecord, stationData, addrByte_eq address]
      rfl
    have query : s.perform .stationQuery [b] = ⟨.ok, stationData a (s.station a), s⟩ :=
      checked_carried (layoutAddress_single b) (addrOfByte?_some address)
    rw [shown]
    exact ⟨exec_shown takes query, fun fits => stationData_length fits a⟩
  · have query : s.perform .stationQuery [b] = refuse .outOfRange s :=
      checked_outOfRange (layoutAddress_single b) (addrOfByte?_eq_none.2 outside)
    exact exec_refused takes query

/-- R16: the pairs of the entries that are not VACANT. -/
theorem rosterData_eq (s : State) :
    rosterData s = ((List.finRange 31).filter fun a => (s.station a).state != .vacant).flatMap
      fun a => [addrByte a, (s.station a).state.code] := by
  unfold rosterData
  induction List.finRange 31 with
  | nil => rfl
  | cons a rest ih =>
    rw [List.flatMap_cons, ih, List.filter_cons]
    by_cases vacant : (s.station a).state = .vacant <;> simp [vacant]

/-- Settles O21: both lists in their order, and nothing changed; more than the command code is MALFORMED. -/
theorem rosterAndQueueQueryListTheirEntries : Obligations.RosterAndQueueQueryListTheirEntries := by
  intro s₀ s seq takes
  refine ⟨?_, ?_, fun b rest => ⟨?_, ?_⟩⟩
  · have listed := exec_shown (name := .roster) (params := []) takes (data := rosterData s) rfl
    rw [rosterData_eq] at listed
    exact listed
  · have listed := exec_shown (name := .queueQuery) (params := []) takes (data := s.requests.flatMap requestData) rfl
    exact listed
  · exact exec_refused (name := .roster) (status := .malformed) takes rfl
  · exact exec_refused (name := .queueQuery) (status := .malformed) takes rfl

end Sys2Proof.Machine
end

section
/-!
SUPPORT. MODIFY: what it stores, and the due time it leaves.
-/

namespace Sys2Proof.Machine

/-! ### The body of MODIFY and its ranges (R6, R174, R175, R197) -/

theorem layoutModify_parts {address n : Byte} {mask : List Byte} (level length mode limit : Option Byte)
    (period : Option Half) (counted : mask.length = n.toNat) :
    layoutModify
        ([address] ++ optionalPart (level.map fun b => [b]) ++ optionalPart (period.map halfBytes) ++
          optionalPart (length.map fun b => [b]) ++ [n] ++ mask ++ optionalPart (mode.map fun b => [b]) ++
          optionalPart (limit.map fun b => [b])) =
      some ⟨address, level, period, length, mask, mode, limit⟩ := by
  have last := readOptional_part readByte_single limit []
  rw [List.append_nil] at last
  simp [layoutModify, readByte, readCounted_cons counted, readOptional_part readByte_single,
    readOptional_part readHalf_halfBytes, last, atEnd]

theorem ReportMode.ofCode?_isSome {c : Byte} : (ReportMode.ofCode? c).isSome = true ↔ c.toNat ≤ 2 := by
  rw [ReportMode.ofCode?_eq]
  simp [Nat.lt_succ_iff]

/-- R6, R175: the ranges of a MODIFY, and what it then asks for. -/
theorem rangeModify_eq_some {present : Addr → Nat} {raw : RawModify} {p : ModifyParams} :
    rangeModify present raw = some p ↔
      raw.address.toNat = p.address.val + 1 ∧
      ((∀ b, raw.level = some b → b.toNat ≤ 7) ∧ p.level = raw.level.map fun b => b.toNat) ∧
      ((∀ h, raw.period = some h → 10 ≤ h.toNat ∧ h.toNat ≤ 60000) ∧
        p.period = raw.period.map fun h => h.toNat) ∧
      ((∀ b, raw.imageLength = some b → 1 ≤ b.toNat ∧ b.toNat ≤ 16) ∧
        p.imageLength = raw.imageLength.map fun b => b.toNat) ∧
      ((raw.watchMask = [] ∨ raw.watchMask.length = p.imageLength.getD (present p.address)) ∧
        p.watchMask = if raw.watchMask = [] then none else some raw.watchMask) ∧
      ((∀ b, raw.reportMode = some b → b.toNat ≤ 2) ∧
        p.reportMode = raw.reportMode.bind fun b => [ReportMode.changes, .every, .silent][b.toNat]?) ∧
      (∀ b, raw.missLimit = some b → 1 ≤ b.toNat ∧ b.toNat ≤ 15) ∧
        p.missLimit = raw.missLimit.map fun b => b.toNat := by
  have level : (∀ b, raw.level = some b → b.toNat ≤ 7) →
      raw.level.bind rangeLevel = raw.level.map fun b => b.toNat :=
    fun range => bind_inRange fun b given => ⟨Nat.zero_le _, range b given⟩
  have period : (∀ h, raw.period = some h → 10 ≤ h.toNat ∧ h.toNat ≤ 60000) →
      raw.period.bind rangePeriod = raw.period.map fun h => h.toNat := bind_inRange
  have length : (∀ b, raw.imageLength = some b → 1 ≤ b.toNat ∧ b.toNat ≤ 16) →
      raw.imageLength.bind rangeImageLength = raw.imageLength.map fun b => b.toNat := bind_inRange
  have limit : (∀ b, raw.missLimit = some b → 1 ≤ b.toNat ∧ b.toNat ≤ 15) →
      raw.missLimit.bind rangeMissLimit = raw.missLimit.map fun b => b.toNat := bind_inRange
  have mode : raw.reportMode.bind ReportMode.ofCode? =
      raw.reportMode.bind fun b => [ReportMode.changes, .every, .silent][b.toNat]? :=
    congrArg _ (funext ReportMode.ofCode?_eq)
  simp only [rangeModify, Option.bind_eq_bind, Option.bind_eq_some_iff, Option.some.injEq, addrOfByte?_eq_some,
    rangeMask_eq_some, checkOptional_eq_some, rangeLevel, rangePeriod, rangeImageLength, rangeMissLimit,
    inRange_isSome, ReportMode.ofCode?_isSome, Nat.zero_le, true_and]
  constructor
  · rintro ⟨a, ha, l, ⟨hl, el⟩, n, ⟨hn, en⟩, m, ⟨hm, em⟩, mask, hmask, mo, ⟨hmode, emode⟩, li, ⟨hli, eli⟩, rfl⟩
    exact ⟨ha, ⟨hl, el.trans (level hl)⟩, ⟨hn, en.trans (period hn)⟩, ⟨hm, em.trans (length hm)⟩, hmask,
      ⟨hmode, emode.trans mode⟩, hli, eli.trans (limit hli)⟩
  · rintro ⟨ha, ⟨hl, el⟩, ⟨hn, en⟩, ⟨hm, em⟩, hmask, ⟨hmode, emode⟩, hli, eli⟩
    exact ⟨_, ha, _, ⟨hl, el.trans (level hl).symm⟩, _, ⟨hn, en.trans (period hn).symm⟩, _,
      ⟨hm, em.trans (length hm).symm⟩, _, hmask, _, ⟨hmode, emode.trans mode.symm⟩, _,
      ⟨hli, eli.trans (limit hli).symm⟩, rfl⟩

/-! ### What a MODIFY makes due (R7) -/

theorem LineEngine.pollInProgress_iff {a : Addr} {g : LineEngine} :
    g.pollInProgress a = true ↔ ∃ (x : Exchange) (d : DueTime), g.exchange = some x ∧
      x.record.station = some a ∧ x.record.orphaned = false ∧
      (x.record.origin = .poll d ∨ x.record.origin = .recoveryPoll d) := by
  unfold LineEngine.pollInProgress
  cases g.exchange with
  | none => simp
  | some x => cases origin : x.record.origin <;> simp [Origin.isPoll, origin]

theorem Station.raisesPoll_iff {inProgress : Bool} {level : Option Nat} {e : Station} :
    e.raisesPoll inProgress level = true ↔
      e.state = .online ∧ e.level = 0 ∧ ¬ inProgress = true ∧ ∃ l, level = some l ∧ 1 ≤ l := by
  unfold Station.raisesPoll
  cases level with
  | none => simp
  | some l => simp; tauto

section Carried

variable {s₀ s : State} {seq : Byte} {params : List Byte} {raw : RawModify} {p : ModifyParams}

/-- R6, R64: MODIFY of a station that is not VACANT. -/
theorem exec_modify (takes : s₀.takes seq s) (layout : layoutModify params = some raw)
    (range : rangeModify (fun a => (s.station a).imageLength) raw = some p)
    (enrolled : (s.station p.address).state ≠ .vacant) :
    exec (.modify seq params) s₀ =
      .next (((s.modifyStation p).selectIf
        ((s.station p.address).raisesPoll (s.engine.pollInProgress p.address) p.level)).respond
          ⟨seq, [0x31#8, 0x00#8]⟩) := by
  refine exec_accepted (name := .modify) takes
    ((checked_carried (carry := State.modifyEntry) layout range).trans ?_)
  unfold State.modifyEntry
  cases state : (s.station p.address).state with
  | vacant => exact absurd state enrolled
  | _ => rfl

/-- The same, the cause of a selection said of the entry and the call in progress. -/
theorem exec_modify_raised {polled raised : Prop} (takes : s₀.takes seq s) (layout : layoutModify params = some raw)
    (range : rangeModify (fun a => (s.station a).imageLength) raw = some p)
    (enrolled : (s.station p.address).state ≠ .vacant)
    (hpolled : polled ↔ s.engine.pollInProgress p.address = true)
    (hraised : raised ↔ (s.station p.address).state = .online ∧ (s.station p.address).level = 0 ∧ ¬ polled ∧
      ∃ l, p.level = some l ∧ 1 ≤ l) :
    (¬ raised → exec (.modify seq params) s₀ = .next ((s.modifyStation p).respond ⟨seq, [0x31#8, 0x00#8]⟩)) ∧
    (raised →
      exec (.modify seq params) s₀ = .next ((s.modifyStation p).select.respond ⟨seq, [0x31#8, 0x00#8]⟩)) := by
  rw [hpolled, ← Station.raisesPoll_iff] at hraised
  rw [exec_modify takes layout range enrolled, State.selectIf, hraised]
  exact ⟨fun not => by rw [if_neg not], fun raised => by rw [if_pos raised]⟩

end Carried

/-! ### What a MODIFY stores (R6 to R11) -/

/-- R6 to R10: the entry with the given parameters but the miss limit, and a due time. -/
def Station.given (p : ModifyParams) (due : Option DueTime) (e : Station) : Station :=
  { e with
    imageLength := p.imageLength.getD e.imageLength
    watchMask :=
      p.watchMask.getD (if p.imageLength.getD e.imageLength = e.imageLength then e.watchMask
        else List.replicate (p.imageLength.getD e.imageLength) 0xFF#8)
    image := if p.imageLength.getD e.imageLength = e.imageLength then e.image else none
    reportedImage := if p.imageLength.getD e.imageLength = e.imageLength then e.reportedImage else none
    level := p.level.getD e.level
    period := p.period.getD e.period
    reportMode := p.reportMode.getD e.reportMode
    nextDue := due }

theorem Station.modified_given (now : Clock) (inProgress : Bool) (p : ModifyParams) (e : Station) :
    ∃ due, e.modified now inProgress p = e.given p due :=
  ⟨_, Station.modified_eq now inProgress p e⟩

section Geometry

variable {p : ModifyParams} {due : Option DueTime} {e : Station}

/-- R9: without a change of the image length the images stay. -/
theorem Station.given_sameLength (same : (e.given p due).imageLength = e.imageLength) :
    (e.given p due).watchMask = p.watchMask.getD e.watchMask ∧ (e.given p due).image = e.image ∧
      (e.given p due).reportedImage = e.reportedImage := by
  replace same : p.imageLength.getD e.imageLength = e.imageLength := same
  simp [Station.given, same]

/-- R9: a new image length clears the images and fills the mask, where none is given. -/
theorem Station.given_newLength (differs : (e.given p due).imageLength ≠ e.imageLength) :
    (e.given p due).watchMask = p.watchMask.getD (List.replicate (e.given p due).imageLength 0xFF#8) ∧
      (e.given p due).image = none ∧ (e.given p due).reportedImage = none := by
  replace differs : p.imageLength.getD e.imageLength ≠ e.imageLength := differs
  simp [Station.given, differs]

end Geometry

theorem State.modifyStation_kept_given {p : ModifyParams} {s : State} {e : Station} (entry : e = s.station p.address)
    (kept : e.state = .suspect → ∀ l, p.missLimit = some l → e.missCount < l) :
    ∃ due, s.modifyStation p = s.setStation p.address
      { e.given p due with
        missLimit := p.missLimit.getD e.missLimit
        missCount := if e.state = .lost then p.missLimit.getD e.missCount else e.missCount } := by
  subst entry
  obtain ⟨due, shape⟩ := Station.modified_given s.clock (s.engine.pollInProgress p.address) p (s.station p.address)
  exact ⟨due, by rw [State.modifyStation_of_kept kept, shape]⟩

theorem State.modifyStation_lost_given {p : ModifyParams} {s : State} {e : Station} {l : Nat}
    (entry : e = s.station p.address) (suspect : e.state = .suspect) (limit : p.missLimit = some l)
    (reached : l ≤ e.missCount) :
    ∃ due, s.modifyStation p =
      (s.setStation p.address { e.given p due with missLimit := l }).enterLost p.address .suspect := by
  subst entry
  obtain ⟨due, shape⟩ := Station.modified_given s.clock (s.engine.pollInProgress p.address) p (s.station p.address)
  exact ⟨due, by rw [State.modifyStation_of_lost suspect limit reached, shape]⟩

theorem State.enterLost_station_self (s : State) (a : Addr) (fromState : StationState) :
    (s.enterLost a fromState).station a =
      { s.station a with
        state := .lost
        missCount := (s.station a).missLimit
        reportedImage := none
        nextDue := some (DueTime.ahead s.clock s.engine.params.probeInterval) } := by
  simp [State.enterLost]

theorem State.enterLost_station_other {s : State} {a b : Addr} (other : b ≠ a) (fromState : StationState) :
    (s.enterLost a fromState).station b = s.station b := by
  simp [State.enterLost, State.station_setStation, State.withStation, other]

/-- Settles O17: the body is read part by part, judged range by range, and stored in the entry. -/
theorem modifyStoresItsParameters : Obligations.ModifyStoresItsParameters := by
  refine ⟨?_, ?_, ?_⟩
  · intro address n level length mode limit period mask part counted part_eq
    have flagged : part = optionalPart := by
      rw [part_eq]
      funext x
      cases x <;> rfl
    rw [flagged]
    exact layoutModify_parts level length mode limit period counted
  · intro present raw inRange range
    have maskLength : ∀ a, (match raw.imageLength with | none => present a | some b => b.toNat) =
        (raw.imageLength.map fun b => b.toNat).getD (present a) := by
      intro a
      cases raw.imageLength <;> rfl
    constructor
    · intro out
      rw [Option.eq_none_iff_forall_ne_some]
      intro p hp
      obtain ⟨ha, ⟨hl, -⟩, ⟨hn, -⟩, ⟨hm, em⟩, ⟨hmask, -⟩, ⟨hmode, -⟩, hlimit, -⟩ := rangeModify_eq_some.1 hp
      rw [em] at hmask
      exact out _ ((range _).2 ⟨ha, hl, hn, hm, hmask.imp_right fun eq => eq.trans (maskLength _).symm, hmode, hlimit⟩)
    · intro a inside
      obtain ⟨ha, hl, hn, hm, hmask, hmode, hlimit⟩ := (range a).1 inside
      exact rangeModify_eq_some.2 ⟨ha, ⟨hl, rfl⟩, ⟨hn, rfl⟩, ⟨hm, rfl⟩,
        ⟨hmask.imp_right fun eq => eq.trans (maskLength a), rfl⟩, ⟨hmode, rfl⟩, hlimit, rfl⟩
  · intro s₀ s seq params raw takes layout
    refine ⟨fun out => exec_refused (name := .modify) takes (checked_outOfRange layout out),
      fun p range => ⟨fun vacant => ?_, ?_⟩⟩
    · refine exec_refused (name := .modify) (status := .notEnrolled) takes
        ((checked_carried (carry := State.modifyEntry) layout range).trans ?_)
      simp only [State.modifyEntry, vacant]
    · intro base e e' polled raised lost hbase entry entry' enrolled hpolled hraised hlost
      obtain ⟨unraised, isRaised⟩ := exec_modify_raised takes layout range (entry ▸ enrolled)
        (hpolled.trans LineEngine.pollInProgress_iff.symm) (entry ▸ hraised)
      rw [← hbase] at unraised isRaised
      refine ⟨unraised, isRaised, ?_⟩
      by_cases isLost : lost
      · obtain ⟨suspect, l, limit, reached⟩ := hlost.1 isLost
        obtain ⟨due, lostBase⟩ := State.modifyStation_lost_given entry suspect limit reached
        rw [← hbase] at lostBase
        have shape : e' =
            { e.given p due with
              missLimit := l, state := .lost, missCount := l, reportedImage := none
              nextDue := some (DueTime.ahead s.clock s.engine.params.probeInterval) } := by
          rw [entry', lostBase, State.enterLost_station_self]
          simp
        have other : ∀ b, b ≠ p.address → base.station b = s.station b := by
          intro b hb
          rw [lostBase, State.enterLost_station_other hb]
          simp [State.station_setStation, hb]
        rw [shape, limit]
        refine ⟨rfl, rfl, rfl, rfl, rfl, rfl, rfl, rfl, rfl, rfl, rfl, rfl, rfl, fun same => ?_, fun differs => ?_,
          fun kept => absurd isLost kept, other, fun kept => absurd isLost kept, fun _ nodup => ?_⟩
        · obtain ⟨mask, image, -⟩ := Station.given_sameLength (p := p) (due := due) same
          exact ⟨mask, image, fun kept => absurd isLost kept⟩
        · obtain ⟨mask, image, -⟩ := Station.given_newLength (p := p) (due := due) differs
          exact ⟨mask, image, rfl⟩
        · refine ⟨rfl, rfl, rfl, rfl, ?_⟩
          rw [lostBase, State.enterLost_eq (by simpa using nodup)]
          rfl
      · obtain ⟨due, keptBase⟩ := State.modifyStation_kept_given entry fun suspect l limit =>
          Nat.lt_of_not_le fun reached => isLost (hlost.2 ⟨suspect, l, limit, reached⟩)
        rw [← hbase] at keptBase
        have shape : e' = { e.given p due with
            missLimit := p.missLimit.getD e.missLimit
            missCount := if e.state = .lost then p.missLimit.getD e.missCount else e.missCount } := by
          rw [entry', keptBase, State.station_setStation_self]
        rw [shape]
        refine ⟨rfl, rfl, rfl, rfl, rfl, rfl, rfl, rfl, rfl, rfl, rfl, rfl, rfl, fun same => ?_, fun differs => ?_,
          fun _ => ⟨rfl, rfl⟩, fun b hb => by simp [keptBase, State.station_setStation, hb], fun _ => ?_,
          fun lost => absurd lost isLost⟩
        · obtain ⟨mask, image, reported⟩ := Station.given_sameLength (p := p) (due := due) same
          exact ⟨mask, image, fun _ => reported⟩
        · exact Station.given_newLength (p := p) (due := due) differs
        · rw [keptBase]
          rfl

/-! ### The due time a MODIFY leaves (R7, R8) -/

section PullIn

variable {now : Clock} {n : Nat} {d : DueTime}

/-- R8: a due time reached, or at most one new period ahead, stays. -/
theorem DueTime.pullIn_eq_self (near : d.reached = true ∨ d.saturated = true ∨
    (now - d.time).toNat < 2147483648 ∨ (d.time - now).toNat ≤ n) : d.pullIn now n = d := by
  rcases near with reached | saturated | arrived | near
  · simp [DueTime.pullIn, DueTime.isReached, reached]
  · simp [DueTime.pullIn, DueTime.isReached, saturated]
  · have arrived : d.arrived now = true := decide_eq_true arrived
    simp [DueTime.pullIn, arrived]
  · rw [DueTime.pullIn, if_neg (show ¬ n < msSince d.time now from Nat.not_lt.2 near), ite_self]

/-- R8: a due time further ahead than one new period is pulled in. -/
theorem DueTime.pullIn_eq_ahead (unreached : d.reached = false) (unsaturated : d.saturated = false)
    (ahead : 2147483648 ≤ (now - d.time).toNat) (far : n < (d.time - now).toNat) :
    d.pullIn now n = ⟨now + BitVec.ofNat 32 n, false, false⟩ := by
  have arrived : d.arrived now = false := decide_eq_false (Nat.not_lt.2 ahead)
  rw [DueTime.pullIn, if_neg (by simp [DueTime.isReached, unreached, unsaturated, arrived]),
    if_pos (show n < msSince d.time now from far)]
  rfl

end PullIn

/-- Settles O18: the level sets or clears the due time, and a shorter period pulls it in. -/
theorem modifyMovesTheDueTime : Obligations.ModifyMovesTheDueTime := by
  intro s₀ s seq params raw p e due left polled raised takes layout range entry enrolled kept hpolled hraised
    dueRaised dueCleared dueKept hleft
  subst entry
  replace hpolled := hpolled.trans LineEngine.pollInProgress_iff.symm
  obtain ⟨unraised, isRaised⟩ := exec_modify_raised takes layout range enrolled hpolled hraised
  rw [hpolled, ← Station.raisesPoll_iff] at hraised
  have levelled : (if (s.station p.address).raisesPoll (s.engine.pollInProgress p.address) p.level then
      some (DueTime.atOnce s.clock)
      else if (s.station p.address).state = .online ∧ p.level = some 0 then none
      else (s.station p.address).nextDue) = due := by
    by_cases isRaised : raised
    · rw [if_pos (hraised.1 isRaised), dueRaised isRaised]
      rfl
    · rw [if_neg (isRaised ∘ hraised.2)]
      by_cases cleared : (s.station p.address).state = .online ∧ p.level = some 0
      · rw [if_pos cleared, dueCleared cleared.1 cleared.2]
      · rw [if_neg cleared, dueKept isRaised cleared]
  have after := Station.modified_nextDue s.clock (s.engine.pollInProgress p.address) p (s.station p.address)
  rw [levelled] at after
  rw [State.modifyStation_of_kept kept, State.station_setStation_self] at hleft
  rw [hleft]
  dsimp only
  refine ⟨unraised, isRaised, fun unmoved => ?_, fun n given counted => ?_⟩
  · cases given : p.period with
    | none => rw [after, given]
    | some n =>
      rcases unmoved with none | ⟨notOnline, notSuspect⟩
      · rw [none] at given
        cases given
      · rw [after, given]
        exact if_neg (by simp [notOnline, notSuspect])
  · have moved : ((s.station p.address).modified s.clock (s.engine.pollInProgress p.address) p).nextDue =
        due.map (DueTime.pullIn s.clock n) := by
      rw [after, given]
      exact if_pos counted
    rw [moved]
    refine ⟨fun none => by rw [none]; rfl, fun d some => ⟨fun near => ?_, fun reached saturated ahead far => ?_⟩⟩
    · rw [some, Option.map_some, DueTime.pullIn_eq_self near]
    · rw [some, Option.map_some, DueTime.pullIn_eq_ahead reached saturated ahead far]

end Sys2Proof.Machine
end

section
/-!
SUPPORT. What outcomes do at an entry, and the state after reset.
-/

namespace Sys2Proof.Machine

/-- An entry put back in its place. -/
theorem State.setStation_self (s : State) (a : Addr) : s.setStation a (s.station a) = s := by
  have kept : s.stations.set a.val s.stations[a.val] a.isLt = s.stations := by
    ext i _
    by_cases same : a.val = i <;> simp [same]
  simp only [State.setStation, State.station, kept]

/-! ### What an outcome counts (R18, R28) -/

section Count

variable {d : Delivery}

theorem Station.count_miss (kind : d.record.kind ≠ .hail) (miss : d.outcome.isMiss = true) (now : Clock) (e : Station) :
    e.count now d =
      { e with
        missedExchanges := satInc e.missedExchanges
        lastFault := some ⟨d.outcome, d.record.kind, now⟩ } := by
  have unanswered : d.outcome.isAnswer = false := by
    cases outcome : d.outcome <;> simp [outcome, ExOutcome.isMiss] at miss <;> rfl
  simp [Station.count, kind, miss, unanswered]

theorem Station.count_pollAnswer (kind : d.record.kind = .poll) (answer : d.outcome.isMiss = false) (now : Clock)
    (e : Station) : e.count now d = { e with goodExchanges := satInc e.goodExchanges } := by
  simp [Station.count, kind, answer]

theorem Station.count_hailGood (kind : d.record.kind = .hail) (good : d.outcome = .good) (now : Clock)
    (e : Station) : e.count now d = e := by
  simp [Station.count, kind, good, ExOutcome.isMiss]

theorem Station.count_hailMissed (kind : d.record.kind = .hail) (bad : d.outcome ≠ .good) (now : Clock)
    (e : Station) :
    e.count now d =
      { e with
        probeMisses := satInc e.probeMisses
        lastFault := if d.outcome.isMiss then some ⟨d.outcome, .hail, now⟩ else e.lastFault } := by
  cases miss : d.outcome.isMiss <;> simp [Station.count, kind, bad, miss]

end Count

/-! ### Misses (R20, R21, R22) -/

theorem ExOutcome.isMiss_iff {o : ExOutcome} :
    o.isMiss = true ↔ o = .noReply ∨ o = .wrongSource ∨ o = .stale ∨ ∃ detail, o = .garbled detail := by
  cases o <;> simp [ExOutcome.isMiss]

theorem Station.countMiss_online {e : Station} (online : e.state = .online) : e.countMiss = 1 := if_pos online

theorem Station.countMiss_suspect {e : Station} (suspect : e.state = .suspect) : e.countMiss = e.missCount + 1 :=
  if_neg (by rw [suspect]; decide)

/-- Settles O41: a miss is counted and makes the station SUSPECT, or LOST once the miss limit is reached. -/
theorem missesLoseTheStation : Obligations.MissesLoseTheStation := by
  constructor
  · intro s a d e misses entry kind outcome state
    subst entry
    have counted : (s.station a).countMiss = misses := by
      rcases state with ⟨online, rfl⟩ | ⟨suspect, rfl⟩
      · exact Station.countMiss_online online
      · exact Station.countMiss_suspect suspect
    have notHail : d.record.kind ≠ .hail := by
      rcases kind with kind | kind | kind <;> simp [kind]
    constructor
    · rw [State.applyOutcome_miss (state.imp And.left And.left) notHail (ExOutcome.isMiss_iff.2 outcome),
        Station.count_miss notHail (ExOutcome.isMiss_iff.2 outcome), satInc_eq]
    · intro below
      rw [State.missed_of_lt (counted ▸ below), counted]
      rfl
  · intro s a e entry nodup state
    subst entry
    have reached : (s.station a).missLimit ≤ (s.station a).countMiss := by
      rcases state with ⟨online, limit⟩ | ⟨suspect, limit⟩
      · rwa [Station.countMiss_online online]
      · rwa [Station.countMiss_suspect suspect]
    refine ⟨_, rfl, ?_⟩
    rw [State.missed_of_ge reached]
    refine ⟨State.enterLost_station_self s a _, fun b other => State.enterLost_station_other other _, ?_, ?_, by simp,
      by simp, by simp, by simp, by simp⟩
    · rw [State.enterLost_eq nodup]
    · rw [State.enterLost_eq nodup]
      rfl

/-! ### Probes (R19, R23) -/

theorem identityOf_three (hi lo revision : Byte) : identityOf [hi, lo, revision] = ⟨hi ++ lo, revision⟩ := rfl

/-- R19, R23: a GOOD HAIL of the identity that must match, or where any does. -/
theorem State.hailAnswered_found {s : State} {a : Addr} {must : Option Identity} {identity : Identity}
    (right : must = none ∨ must = some identity) (reason : StationReason) :
    s.hailAnswered a must identity reason =
      (s.setStation a ((s.station a).found s.clock identity)).putReport
        (.station a (s.station a).state .online reason (some identity) 0) := by
  simp only [State.hailAnswered, if_pos right]

theorem State.hailAnswered_mismatched {s : State} {a : Addr} {must : Option Identity} {identity : Identity}
    (wrong : ¬ (must = none ∨ must = some identity)) (reason : StationReason) :
    s.hailAnswered a must identity reason =
      (s.setStation a ((s.station a).mismatched identity)).putReport
        (.station a (s.station a).state .parked .identityMismatch (some identity) 0) := by
  simp only [State.hailAnswered, if_neg wrong]

/-- R19, R23: a HAIL at a PROBING or LOST station, the identity that must match and the reason given. -/
theorem State.applyOutcome_hail {s : State} {a : Addr} {d : Delivery} {must : Option Identity}
    {reason : StationReason} (kind : d.record.kind = .hail)
    (state : (s.station a).state = .probing ∧ must = (s.station a).expected ∧ reason = .found ∨
      (s.station a).state = .lost ∧
        must = (if (s.station a).expected = none then (s.station a).identity else (s.station a).expected) ∧
        reason = .returned) :
    (d.outcome = .good → s.applyOutcome a d = s.hailAnswered a must (identityOf d.data) reason) ∧
    (d.outcome ≠ .good →
      s.applyOutcome a d = (s.setStation a ((s.station a).count s.clock d)).probeAgain a) := by
  rcases state with ⟨probing, rfl, rfl⟩ | ⟨lost, known, rfl⟩
  · rw [State.applyOutcome_probing probing kind]
    refine ⟨fun good => ?_, fun bad => if_neg bad⟩
    rw [if_pos good, Station.count_hailGood kind good, State.setStation_self]
  · rw [State.applyOutcome_lost lost kind]
    refine ⟨fun good => ?_, fun bad => if_neg bad⟩
    rw [if_pos good, Station.count_hailGood kind good, State.setStation_self, known]
    cases (s.station a).expected <;> rfl

/-- Settles O45: a GOOD HAIL is judged by the identity that must match; any other outcome sets the next probe. -/
theorem hailDecidesTheIdentity : Obligations.HailDecidesTheIdentity := by
  intro s a d e must reason kind entry state
  subst entry
  obtain ⟨answered, unanswered⟩ := State.applyOutcome_hail kind state
  refine ⟨fun hi lo revision identity good data known => ?_, fun bad => ?_⟩
  · rw [answered good, data, identityOf_three, ← known]
    refine ⟨fun right => ?_, fun some other => ?_⟩
    · rw [State.hailAnswered_found right, Station.found]
      cases (s.station a).level <;> rfl
    · rw [State.hailAnswered_mismatched (not_or.2 ⟨some, other⟩)]
      rfl
  · rw [unanswered bad, Station.count_hailMissed kind bad, satInc_eq]
    rw [State.probeAgain, State.withStation, State.station_setStation_self, State.setStation_setStation]
    rfl

/-! ### Answers to a poll (R20, R21, R26, R27, R58) -/

theorem satAdd_eq (c : Half) (n : Nat) :
    satAdd c n = if 65535 < c.toNat + n then 0xFFFF#16 else BitVec.ofNat 16 (c.toNat + n) := by
  unfold satAdd
  split
  · next beyond => rw [Nat.min_eq_left (Nat.le_of_lt beyond)]
  · next within => rw [Nat.min_eq_right (Nat.not_lt.1 within)]

/-- R56: when the lateness of a reached due time is the largest one. -/
theorem DueTime.lateness_eq_cap {now : Clock} {d : DueTime} (reached : d.reached = true) :
    d.lateness now = Config.latenessCap ↔ d.saturated = true ∨ 2147483647 ≤ (now - d.time).toNat := by
  have isReached : d.isReached now = true := by simp [DueTime.isReached, reached]
  unfold DueTime.lateness
  cases saturated : d.saturated with
  | true => simp
  | false =>
    rw [if_neg (by decide), if_pos isReached, min_eq_left_iff, msSince]
    simp only [Bool.false_eq_true, false_or]

theorem Station.answered_poll {now : Clock} {anchor : DueTime} {origin : Origin}
    (polls : origin = .poll anchor ∨ origin = .recoveryPoll anchor) (e : Station) :
    e.answered now origin = ({ e with state := .online, missCount := 0 } : Station).afterPoll now anchor := by
  rcases polls with rfl | rfl <;> rfl

theorem Station.afterPoll_unpolled {e : Station} (level : e.level = 0) (now : Clock) (anchor : DueTime) :
    e.afterPoll now anchor = { e with nextDue := none } := by
  simp [Station.afterPoll, level]

/-- R58: after a saturated lateness the grid is abandoned. -/
theorem Station.afterPoll_full {now : Clock} {anchor : DueTime} {e : Station} (level : e.level ≠ 0)
    (full : anchor.lateness now = Config.latenessCap) :
    e.afterPoll now anchor =
      { e with
        nextDue := some ⟨now + BitVec.ofNat 32 e.period, false, false⟩
        pollOverruns := satAdd e.pollOverruns (2147483647 / e.period) } := by
  rw [Station.afterPoll, if_pos (Nat.one_le_iff_ne_zero.2 level), Station.nextOnGrid, if_pos full]
  rfl

/-- R58: the first grid point ahead, with the ones passed over counted. -/
theorem Station.afterPoll_grid {now : Clock} {anchor : DueTime} {e : Station} {k : Nat} (level : e.level ≠ 0)
    (notFull : anchor.lateness now ≠ Config.latenessCap) (positive : 1 ≤ k)
    (ahead : (now - anchor.time).toNat < k * e.period) (passed : (k - 1) * e.period ≤ (now - anchor.time).toNat) :
    e.afterPoll now anchor =
      { e with
        nextDue := some ⟨anchor.time + BitVec.ofNat 32 (k * e.period), false, false⟩
        pollOverruns := satAdd e.pollOverruns (k - 1) } := by
  have count : msSince now anchor.time / e.period = k - 1 :=
    Nat.div_eq_of_lt_le passed (by rwa [Nat.sub_add_cancel positive])
  rw [Station.afterPoll, if_pos (Nat.one_le_iff_ne_zero.2 level), Station.nextOnGrid, if_neg notFull]
  simp only [count, Nat.sub_add_cancel positive]
  rfl

/-- R27: when the image of a GOOD poll is reported. -/
theorem Station.reportsImage_iff {e : Station} {data : List Byte} :
    e.reportsImage data = true ↔
      e.reportMode = .every ∨
        e.reportMode = .changes ∧
          (e.reportedImage = none ∨
            ∃ old, e.reportedImage = some old ∧ ∃ (i : Nat) (m p q : Byte),
              e.watchMask[i]? = some m ∧ old[i]? = some p ∧ data[i]? = some q ∧ p &&& m ≠ q &&& m) := by
  unfold Station.reportsImage
  cases mode : e.reportMode with
  | every => simp
  | silent => simp
  | changes =>
    cases reported : e.reportedImage with
    | none => simp
    | some old => simp [differsUnder_iff]

/-- Settles O44: the entry an answered poll leaves, then the image a GOOD one brings. -/
theorem goodPollUpdatesTheEntry : Obligations.GoodPollUpdatesTheEntry := by
  intro s a d anchor e polled k late full reports next overruns raised kind origin entry state _ hlate hfull reached
    grid hraised unpolled onGrid offGrid hreports hpolled
  subst entry hlate
  obtain ⟨positive, ahead, passed⟩ := grid
  rw [← DueTime.lateness_eq_cap reached] at hfull
  have raised_eq : ∀ c n, raised c n = satAdd c n := fun c n => by rw [hraised, satAdd_eq]
  have answeredEntry : d.outcome.isMiss = false →
      ((s.station a).count s.clock d).answered s.clock d.record.origin = polled := by
    intro answer
    rw [Station.count_pollAnswer kind answer, Station.answered_poll origin, satInc_eq, hpolled]
    by_cases level : (s.station a).level = 0
    · obtain ⟨rfl, rfl⟩ := unpolled level
      rw [Station.afterPoll_unpolled]
      exact level
    · by_cases isFull : full
      · obtain ⟨rfl, rfl⟩ := offGrid level isFull
        rw [raised_eq, Station.afterPoll_full]
        · exact level
        · exact hfull.1 isFull
      · obtain ⟨rfl, rfl⟩ := onGrid level isFull
        rw [raised_eq, Station.afterPoll_grid (k := k) _ (isFull ∘ hfull.2) positive]
        · exact ahead
        · exact passed
        · exact level
  have applied : d.outcome.isMiss = false →
      s.applyOutcome a d =
        if d.record.kind = .poll ∧ d.outcome = .good then
          (s.setStation a polled).handleImage a d.record.imageLength d.data
        else s.setStation a polled := by
    intro answer
    rw [State.applyOutcome_answer state (by simp [kind]) answer, answeredEntry answer]
  have imageLength : polled.imageLength = (s.station a).imageLength := by rw [hpolled]
  have calls : polled.reportsImage d.data = true ↔ reports := by
    rw [Station.reportsImage_iff, hreports, hpolled]
  refine ⟨?_, ?_, ?_⟩
  · rintro (⟨reason, refused⟩ | ⟨good, other⟩)
    · rw [applied (by rw [refused]; rfl), if_neg (by simp [refused])]
    · rw [applied (by rw [good]; rfl), if_pos ⟨kind, good⟩, State.handleImage, State.station_setStation_self,
        imageLength, if_neg other]
  · intro good same isReported
    rw [← imageLength] at same
    rw [applied (by rw [good]; rfl), if_pos ⟨kind, good⟩, State.handleImage, State.station_setStation_self,
      if_pos same, ← imageLength]
    simp only [State.storeImage, State.station_setStation_self, calls.2 isReported, if_true,
      State.setStation_setStation]
  · intro good same unreported
    rw [← imageLength] at same
    rw [applied (by rw [good]; rfl), if_pos ⟨kind, good⟩, State.handleImage, State.station_setStation_self,
      if_pos same]
    simp only [State.storeImage, State.station_setStation_self, unreported, calls, if_false,
      State.setStation_setStation]

/-! ### Reset -/

/-- Settles O56: reset leaves nothing in progress, and the rest at values in range. -/
theorem resetStateIsOk : Obligations.ResetStateIsOk := by
  obtain ⟨stations, timetable, line⟩ := afterReset_kept .power false []
  have running : State.reset.held = false := rfl
  have queue : State.reset.requests = [] := rfl
  have idle : State.reset.engine.exchange = none := rfl
  refine ⟨stations, timetable, line, ⟨?_, ?_, ?_, ?_, ?_, ?_, ?_, ?_⟩, ?_, ?_, ?_, fun held => ?_⟩
  · simp [queue]
  · simp [queue]
  · simp [queue]
  · simp [queue]
  · simp [idle]
  · simp [idle]
  · simp [queue]
  · exact .refl _
  · refine ⟨rfl, rfl, by decide, rfl, ?_, by decide, by decide, by decide, by decide, ?_⟩
    · simp [State.reset, State.afterReset, ReportUnit.reset, ReportUnit.unsentEntries, SendState.isSent]
    · simp [State.reset, State.afterReset, ReportUnit.reset]
  · exact ⟨rfl, by simp [State.reset, State.afterReset], fun _ => ⟨rfl, rfl, rfl, rfl⟩⟩
  · refine ⟨?_, ⟨.inl rfl, ?_⟩, by decide, by decide⟩
    · unfold LineParams.inRange
      decide
    · simp [State.reset, State.afterReset, Fallback.reset]
  · rw [running] at held
    cases held

end Sys2Proof.Machine
end

section
/-!
SUPPORT. The report queue in two parts, the SENT entries in front and the UNSENT ones behind, and what each
operation of the Report Unit does to them.
-/

namespace Sys2Proof.Machine

/-! ### Kind and subject (R130, R137) -/

/-- R137: two reports that do not merge have different kinds or subjects, whichever is the newer. -/
theorem Report.merge?_comm_none {a b : Report} (h : a.merge? b = none) : b.merge? a = none := by
  cases a <;> cases b <;> simp_all [Report.merge?, eq_comm]

/-- R137: a merged report has the kind and the subject of the older one. -/
theorem Report.merge?_merged {old new merged : Report} (h : old.merge? new = some merged) (other : Report) :
    merged.merge? other = none ↔ old.merge? other = none := by
  cases old <;> cases new <;> simp [Report.merge?] at h
  case image.image => obtain ⟨rfl, rfl⟩ := h; cases other <;> simp [Report.merge?]
  case station.station => obtain ⟨rfl, rfl⟩ := h; cases other <;> simp [Report.merge?]
  case line.line => subst h; cases other <;> simp [Report.merge?]

/-- R131, R132: a report that something merges into is neither READY nor a RESULT. -/
def Report.merges : Report → Bool
  | .ready _ _ => false
  | .result _ _ _ _ _ _ => false
  | .image _ _ _ _ => true
  | .station _ _ _ _ _ _ => true
  | .line _ _ _ _ _ => true

theorem Report.merges_of_merge? {old new merged : Report} (h : old.merge? new = some merged) :
    old.merges = true ∧ merged.merges = true := by
  cases old <;> cases new <;> simp [Report.merge?] at h
  case image.image => obtain ⟨rfl, rfl⟩ := h; exact ⟨rfl, rfl⟩
  case station.station => obtain ⟨rfl, rfl⟩ := h; exact ⟨rfl, rfl⟩
  case line.line => subst h; exact ⟨rfl, rfl⟩

theorem ReportEntry.of_merges {e : ReportEntry} (h : e.report.merges = true) :
    e.resultTag? = none ∧ e.report.isReady = false := by
  obtain ⟨report, status⟩ := e
  cases report <;> simp [Report.merges] at h <;> exact ⟨rfl, rfl⟩

/-- R136, R137: placing a report that merges leaves RESULT and READY reports as they were. -/
theorem placeReport_merges {r : Report} (h : r.merges = true) (queue : List ReportEntry) :
    (placeReport r queue).filterMap ReportEntry.resultTag? = queue.filterMap ReportEntry.resultTag? ∧
      (placeReport r queue).countP (fun e => e.report.isReady) = queue.countP (fun e => e.report.isReady) := by
  induction queue with
  | nil =>
    obtain ⟨tag, ready⟩ := ReportEntry.of_merges (e := ⟨r, .unsent⟩) h
    simp [placeReport, tag, ready]
  | cons e rest ih =>
    unfold placeReport
    split
    · next merged _ into =>
      obtain ⟨older, newer⟩ := Report.merges_of_merge? into
      obtain ⟨tag, ready⟩ := ReportEntry.of_merges (e := e) older
      obtain ⟨tag', ready'⟩ := ReportEntry.of_merges (e := ⟨merged, .unsent⟩) newer
      simp only [List.filterMap_cons, List.countP_cons, tag, ready, tag', ready', and_self]
    · simp only [List.filterMap_cons, List.countP_cons, ih, and_self]

/-- R129: SENT entries are passed over. -/
theorem placeReport_front {front : List ReportEntry} (sent : ∀ e ∈ front, e.status.isSent = true) (r : Report)
    (back : List ReportEntry) : placeReport r (front ++ back) = front ++ placeReport r back := by
  induction front with
  | nil => rfl
  | cons e front ih =>
    obtain ⟨report, status⟩ := e
    have first := sent ⟨report, status⟩ (by simp)
    cases status with
    | unsent => cases first
    | sent q => simp [placeReport, ih fun x hx => sent x (by simp [hx])]

/-- R136, R137: every entry placed is an old one, a merged one or the new one. -/
theorem mem_placeReport {r : Report} {queue : List ReportEntry} {e : ReportEntry} (h : e ∈ placeReport r queue) :
    e ∈ queue ∨ e = ⟨r, .unsent⟩ ∨
      e.status = .unsent ∧ ∃ old ∈ queue, old.report.merge? r = some e.report := by
  induction queue with
  | nil => exact .inr (.inl (by simpa [placeReport] using h))
  | cons x rest ih =>
    unfold placeReport at h
    split at h
    · next merged _ into =>
      rcases List.mem_cons.1 h with rfl | h
      · exact .inr (.inr ⟨rfl, x, by simp, into⟩)
      · exact .inl (by simp [h])
    · rcases List.mem_cons.1 h with rfl | h
      · exact .inl (by simp)
      · rcases ih h with old | new | ⟨status, old, mem, into⟩
        · exact .inl (by simp [old])
        · exact .inr (.inl new)
        · exact .inr (.inr ⟨status, old, by simp [mem], into⟩)

/-- R137: no two UNSENT entries of a kind and subject, before and after a report is placed. -/
theorem placeReport_pairwise {queue : List ReportEntry} (unsent : ∀ e ∈ queue, e.status.isSent = false)
    (h : queue.Pairwise fun old new => old.report.merge? new.report = none) (r : Report) :
    (placeReport r queue).Pairwise fun old new => old.report.merge? new.report = none := by
  induction queue with
  | nil => simp [placeReport]
  | cons x rest ih =>
    obtain ⟨report, status⟩ := x
    rw [List.pairwise_cons] at h
    obtain ⟨apart, distinct⟩ := h
    cases status with
    | sent q => simpa [SendState.isSent] using unsent ⟨report, .sent q⟩ (by simp)
    | unsent =>
      unfold placeReport
      dsimp only
      cases into : report.merge? r with
      | some merged =>
        exact List.pairwise_cons.2 ⟨fun e he => (Report.merge?_merged into _).2 (apart e he), distinct⟩
      | none =>
        refine List.pairwise_cons.2 ⟨fun e he => ?_, ih (fun e he => unsent e (by simp [he])) distinct⟩
        rcases mem_placeReport he with old | rfl | ⟨-, old, mem, folded⟩
        · exact apart e old
        · exact into
        · exact Report.merge?_comm_none
            ((Report.merge?_merged folded _).2 (Report.merge?_comm_none (apart old mem)))

/-! ### SENT in front, UNSENT behind (R129, R143) -/

/-- R129, R143, R151: the queue of a Report Unit as its SENT entries and its UNSENT ones. -/
structure ReportUnit.Ordered (u : ReportUnit) (front back : List ReportEntry) : Prop where
  queue : u.queue = front ++ back
  sent : ∀ e ∈ front, e.status.isSent = true
  unsent : ∀ e ∈ back, e.status.isSent = false
  attn : u.attn = !u.queue.isEmpty
  window : front.length ≤ 4
  numbers : front.map (fun e => e.status) = sentNumbers u.nextSeq front.length
  distinct : back.Pairwise fun old new => old.report.merge? new.report = none
  ready : u.queue.countP (fun e => e.report.isReady) ≤ 1

/-- R147, R148: the round count, the ack timer and the resend point beside the SENT entries. -/
structure ReportUnit.Paced (u : ReportUnit) (front : List ReportEntry) : Prop where
  rounds : u.roundCount ≤ 8
  stalled : u.link = .stalled ↔ u.roundCount = 8
  timer : u.ackTimer.isSome = true ↔ u.link = .flowing ∧ front ≠ []
  resend : ∀ q ∈ u.resendPoint, u.link = .flowing ∧ ∃ e ∈ front, e.status = .sent q

theorem ReportUnit.Ordered.entries {u : ReportUnit} {front back : List ReportEntry} (h : u.Ordered front back) :
    u.sentEntries = front ∧ u.unsentEntries = back := by
  have frontNot : front.filter (fun e => !e.status.isSent) = [] :=
    List.filter_eq_nil_iff.2 fun e he => by simp [h.sent e he]
  have backNot : back.filter (fun e => e.status.isSent) = [] :=
    List.filter_eq_nil_iff.2 fun e he => by simp [h.unsent e he]
  have frontAll : front.filter (fun e => e.status.isSent) = front := List.filter_eq_self.2 h.sent
  have backAll : back.filter (fun e => !e.status.isSent) = back :=
    List.filter_eq_self.2 fun e he => by simp [h.unsent e he]
  constructor
  · rw [ReportUnit.sentEntries, h.queue, List.filter_append, frontAll, backNot, List.append_nil]
  · rw [ReportUnit.unsentEntries, h.queue, List.filter_append, frontNot, backAll, List.nil_append]

/-- The order of the queue has nothing to do with the pace of its sending. -/
theorem ReportUnit.Ordered.congr {u t : ReportUnit} {front back : List ReportEntry} (h : u.Ordered front back)
    (queue : t.queue = u.queue) (attn : t.attn = u.attn) (nextSeq : t.nextSeq = u.nextSeq) : t.Ordered front back where
  queue := queue.trans h.queue
  sent := h.sent
  unsent := h.unsent
  attn := by rw [attn, queue]; exact h.attn
  window := h.window
  numbers := by rw [nextSeq]; exact h.numbers
  distinct := h.distinct
  ready := by rw [queue]; exact h.ready

theorem ReportUnit.fits_iff {u : ReportUnit} : u.fits ↔ ∃ front back, u.Ordered front back ∧ u.Paced front := by
  constructor
  · rintro ⟨attn, queue, window, numbers, distinct, ready, rounds, stalled, timer, resend⟩
    refine ⟨u.sentEntries, u.unsentEntries, ⟨queue, ?_, ?_, attn, window, numbers, distinct, ready⟩,
      ⟨rounds, stalled, timer, fun q hq => ?_⟩⟩
    · exact fun e he => (List.mem_filter.1 he).2
    · exact fun e he => by simpa using (List.mem_filter.1 he).2
    · obtain ⟨flowing, e, mem, status⟩ := resend q hq
      exact ⟨flowing, e, List.mem_filter.2 ⟨mem, by rw [status]; rfl⟩, status⟩
  · rintro ⟨front, back, order, pace⟩
    obtain ⟨sentEq, unsentEq⟩ := order.entries
    refine ⟨order.attn, by rw [sentEq, unsentEq, order.queue], ?_, ?_, ?_, order.ready, pace.rounds, pace.stalled, ?_,
      fun q hq => ?_⟩
    · rw [sentEq]; exact order.window
    · rw [sentEq]; exact order.numbers
    · rw [unsentEq]; exact order.distinct
    · rw [sentEq]; exact pace.timer
    · obtain ⟨flowing, e, mem, status⟩ := pace.resend q hq
      exact ⟨flowing, e, by rw [order.queue]; exact List.mem_append_left _ mem, status⟩

/-! ### Reports placed (R136 to R140) -/

theorem ReportUnit.fits.place {u : ReportUnit} (h : u.fits) {r : Report} (merges : r.merges = true) :
    (u.setQueue (placeReport r u.queue)).fits := by
  obtain ⟨front, back, order, pace⟩ := ReportUnit.fits_iff.1 h
  refine ReportUnit.fits_iff.2 ⟨front, placeReport r back, ⟨?_, order.sent, fun e he => ?_, rfl, order.window,
    order.numbers, placeReport_pairwise order.unsent order.distinct r, ?_⟩, pace.rounds, pace.stalled, pace.timer,
    pace.resend⟩
  · rw [ReportUnit.setQueue_queue, order.queue, placeReport_front order.sent]
  · rcases mem_placeReport he with old | rfl | ⟨status, -⟩
    · exact order.unsent e old
    · rfl
    · rw [status]; rfl
  · rw [ReportUnit.setQueue_queue, (placeReport_merges merges _).2]
    exact order.ready

/-- R132, R137: RESULT reports join the tail. -/
theorem ReportUnit.fits.append {u t : ReportUnit} (h : u.fits) {added : List ReportEntry}
    (results : ∀ e ∈ added, e.status = .unsent ∧ e.resultTag?.isSome = true)
    (new : t = { u with queue := u.queue ++ added, attn := !(u.queue ++ added).isEmpty }) : t.fits := by
  obtain ⟨front, back, order, pace⟩ := ReportUnit.fits_iff.1 h
  subst new
  have alone : ∀ e ∈ added, ∀ other : Report,
      e.report.isReady = false ∧ e.report.merge? other = none ∧ other.merge? e.report = none := by
    intro e he other
    have isResult := (results e he).2
    obtain ⟨report, status⟩ := e
    cases report <;> simp [ReportEntry.resultTag?] at isResult
    cases other <;> exact ⟨rfl, rfl, rfl⟩
  refine ReportUnit.fits_iff.2 ⟨front, back ++ added, ⟨?_, order.sent, fun e he => ?_, rfl, order.window,
    order.numbers, ?_, ?_⟩, pace.rounds, pace.stalled, pace.timer, pace.resend⟩
  · dsimp only
    rw [order.queue, List.append_assoc]
  · rcases List.mem_append.1 he with he | he
    · exact order.unsent e he
    · rw [(results e he).1]; rfl
  · refine List.pairwise_append.2 ⟨order.distinct, ?_, fun old _ e he => (alone e he old.report).2.2⟩
    exact List.pairwise_of_forall_mem_list fun old hold e _ => (alone old hold e.report).2.1
  · dsimp only
    have unready : added.countP (fun e => e.report.isReady) = 0 :=
      List.countP_eq_zero.2 fun e he => by simp [(alone e he e.report).1]
    rw [List.countP_append, unready]
    exact order.ready

/-! ### Sequence numbers (R143) -/

theorem sentNumbers_drop (next : Byte) (m n : Nat) : (sentNumbers next (m + n)).drop m = sentNumbers next n := by
  unfold sentNumbers
  apply List.ext_getElem?
  intro i
  simp only [List.getElem?_drop, List.getElem?_map]
  by_cases inside : i < n
  · rw [List.getElem?_range (by omega), List.getElem?_range inside]
    simp only [Option.map_some, show m + n - (m + i) = n - i by omega]
  · rw [List.getElem?_eq_none (by simp; omega), List.getElem?_eq_none (by simp; omega)]
    rfl

theorem sentNumbers_succ (next : Byte) (n : Nat) :
    sentNumbers (next + 1) (n + 1) = sentNumbers next n ++ [.sent next] := by
  unfold sentNumbers
  rw [List.range_succ, List.map_append]
  congr 1
  · apply List.map_congr_left
    intro i hi
    have below : i < n := List.mem_range.1 hi
    have number : next + 1 - natByte (n + 1 - i) = next - natByte (n - i) := by
      rw [show n + 1 - i = (n - i) + 1 by omega, natByte, natByte, BitVec.ofNat_add]
      generalize BitVec.ofNat 8 (n - i) = k
      bv_omega
    rw [number]
  · simp [natByte]

/-! ### Acknowledgements (R145, R146, R149) -/

/-- R145: what an ACK takes is a non-empty part of the SENT front. -/
theorem splitAck_some {q : Byte} {front back removed rest : List ReportEntry}
    (unsent : ∀ e ∈ back, e.status.isSent = false) (h : splitAck q (front ++ back) = some (removed, rest)) :
    ∃ kept, front = removed ++ kept ∧ rest = kept ++ back := by
  induction front generalizing removed with
  | nil =>
    cases back with
    | nil => cases h
    | cons e back =>
      have first := unsent e (by simp)
      obtain ⟨report, status⟩ := e
      cases status with
      | sent q' => cases first
      | unsent => cases h
  | cons e front ih =>
    obtain ⟨report, status⟩ := e
    cases status with
    | unsent => cases h
    | sent q' =>
      simp only [List.cons_append, splitAck] at h
      split at h
      · cases h
        exact ⟨front, rfl, rfl⟩
      · rw [Option.map_eq_some_iff] at h
        obtain ⟨⟨taken, others⟩, split, parts⟩ := h
        cases parts
        obtain ⟨kept, rfl, rfl⟩ := ih split
        exact ⟨kept, rfl, rfl⟩

theorem splitAck_queue {q : Byte} {queue removed rest : List ReportEntry}
    (h : splitAck q queue = some (removed, rest)) : queue = removed ++ rest := by
  induction queue generalizing removed with
  | nil => cases h
  | cons e queue ih =>
    obtain ⟨report, status⟩ := e
    cases status with
    | unsent => cases h
    | sent q' =>
      simp only [splitAck] at h
      split at h
      · cases h
        rfl
      · rw [Option.map_eq_some_iff] at h
        obtain ⟨⟨taken, others⟩, split, parts⟩ := h
        cases parts
        rw [ih split, List.cons_append]

@[simp] theorem ReportUnit.stallEnded_queue (now : Clock) (u : ReportUnit) : (u.stallEnded now).queue = u.queue := by
  unfold ReportUnit.stallEnded
  split
  · rfl
  · split <;> rfl

theorem oldestSent_mem {queue : List ReportEntry} {q : Byte} (h : oldestSent queue = some q) :
    ∃ e ∈ queue, e.status = .sent q := by
  induction queue with
  | nil => cases h
  | cons e rest ih =>
    obtain ⟨report, status⟩ := e
    cases status with
    | sent q' => cases h; exact ⟨_, List.mem_cons_self, rfl⟩
    | unsent =>
      obtain ⟨e, mem, status⟩ := ih h
      exact ⟨e, List.mem_cons_of_mem _ mem, status⟩

/-- The oldest SENT entry stands in the front; there is one exactly when the front is not empty. -/
theorem oldestSent_of_parts {front back : List ReportEntry} (sent : ∀ e ∈ front, e.status.isSent = true)
    (unsent : ∀ e ∈ back, e.status.isSent = false) :
    ((oldestSent (front ++ back)).isSome = true ↔ front ≠ []) ∧
      ∀ q, oldestSent (front ++ back) = some q → ∃ e ∈ front, e.status = .sent q := by
  constructor
  · rw [oldestSent_isSome, List.any_append]
    have backNot : (back.any fun e => e.status.isSent) = false := by
      simpa using fun e he => unsent e he
    rw [backNot, Bool.or_false]
    cases front with
    | nil => simp
    | cons e front => simp [sent e (by simp)]
  · intro q oldest
    obtain ⟨e, mem, status⟩ := oldestSent_mem oldest
    rcases List.mem_append.1 mem with mem | mem
    · exact ⟨e, mem, status⟩
    · have := unsent e mem
      rw [status] at this
      cases this

/-- R149: the end of STALLED starts the resending of what is SENT. What it needs of the Report Unit is less than
`Paced`: an ACK has already set the round count back. -/
theorem ReportUnit.Ordered.stallEnded_fits {u : ReportUnit} {front back : List ReportEntry}
    (order : u.Ordered front back)
    (flowing : u.link = .flowing → u.Paced front)
    (stalled : u.link = .stalled → u.resendPoint = none ∧ (front = [] → u.ackTimer = none)) (now : Clock) :
    (u.stallEnded now).fits := by
  obtain ⟨isSome, mem⟩ := oldestSent_of_parts order.sent order.unsent
  rw [← order.queue] at isSome mem
  unfold ReportUnit.stallEnded
  cases link : u.link with
  | flowing => exact ReportUnit.fits_iff.2 ⟨front, back, order, flowing link⟩
  | stalled =>
    obtain ⟨resend, timer⟩ := stalled link
    dsimp only
    cases oldest : oldestSent u.queue with
    | none =>
      have empty : front = [] := by
        by_contra nonempty
        have := isSome.2 nonempty
        rw [oldest] at this
        cases this
      refine ReportUnit.fits_iff.2 ⟨front, back, order.congr rfl rfl rfl,
        by simp, by simp, ?_, ?_⟩
      · simp [timer empty, empty]
      · simp [resend]
    | some q =>
      have nonempty : front ≠ [] := isSome.1 (by rw [oldest]; rfl)
      refine ReportUnit.fits_iff.2 ⟨front, back, order.congr rfl rfl rfl,
        by simp, by simp, ?_, ?_⟩
      · simp [nonempty]
      · rintro q' h
        cases h
        exact ⟨rfl, mem q oldest⟩

theorem ReportUnit.fits.stallEnded {u : ReportUnit} (h : u.fits) (now : Clock) : (u.stallEnded now).fits := by
  obtain ⟨front, back, order, pace⟩ := ReportUnit.fits_iff.1 h
  refine order.stallEnded_fits (fun _ => pace) (fun stalled => ⟨?_, fun _ => ?_⟩) now
  · rw [Option.eq_none_iff_forall_ne_some]
    intro q resend
    have := (pace.resend q resend).1
    rw [stalled] at this
    cases this
  · rw [← Option.not_isSome_iff_eq_none, pace.timer]
    simp [stalled]

/-- R145, R149: an ACK that matches, and the end of STALLED its good CRC brings. -/
theorem ReportUnit.fits.acked {u : ReportUnit} (h : u.fits) {q : Byte} {removed rest : List ReportEntry}
    (split : splitAck q u.queue = some (removed, rest)) (now : Clock) :
    ((u.acked now removed rest).stallEnded now).fits := by
  obtain ⟨front, back, order, pace⟩ := ReportUnit.fits_iff.1 h
  rw [order.queue] at split
  obtain ⟨kept, rfl, rfl⟩ := splitAck_some order.unsent split
  have keptSent : ∀ e ∈ kept, e.status.isSent = true := fun e he => order.sent e (List.mem_append_right _ he)
  obtain ⟨isSome, mem⟩ := oldestSent_of_parts keptSent order.unsent
  have numbers := congrArg (List.drop removed.length) order.numbers
  rw [List.length_append, sentNumbers_drop, ← List.map_drop, List.drop_left] at numbers
  have ordered : (u.acked now removed (kept ++ back)).Ordered kept back := by
    refine ⟨rfl, keptSent, order.unsent, rfl, ?_, numbers, order.distinct, ?_⟩
    · have := order.window
      rw [List.length_append] at this
      omega
    · have := order.ready
      rw [order.queue, List.append_assoc, List.countP_append] at this
      show (kept ++ back).countP _ ≤ 1
      omega
  have timer : (u.acked now removed (kept ++ back)).ackTimer.isSome = true ↔ kept ≠ [] := by
    rw [← isSome]
    unfold ReportUnit.acked
    dsimp only
    split <;> simp [*]
  refine ordered.stallEnded_fits (fun flowing => ⟨by simp [ReportUnit.acked], ?_, ?_, fun q' resend => ⟨flowing, ?_⟩⟩)
    (fun stalled => ⟨?_, fun empty => ?_⟩) now
  · rw [flowing]
    simp [ReportUnit.acked]
  · rw [timer, flowing]
    simp
  · replace resend : (match u.resendPoint with
      | none => none
      | some q => if removed.any (ReportEntry.sentAs q) then oldestSent (kept ++ back) else some q) =
        some q' := resend
    split at resend
    · cases resend
    · next q₀ point =>
      split at resend
      · exact mem q' resend
      · next outside =>
        cases resend
        obtain ⟨-, e, here, status⟩ := pace.resend q' point
        rcases List.mem_append.1 here with here | here
        · exact absurd (List.any_eq_true.2 ⟨e, here, by simp [ReportEntry.sentAs, status]⟩) outside
        · exact ⟨e, here, status⟩
  · have absent : u.resendPoint = none := by
      rw [Option.eq_none_iff_forall_ne_some]
      intro q' resend
      have flowing := (pace.resend q' resend).1
      replace stalled : u.link = .stalled := stalled
      rw [stalled] at flowing
      cases flowing
    show (match u.resendPoint with
      | none => _
      | some q => _) = none
    rw [absent]
  · rw [← Option.not_isSome_iff_eq_none, timer]
    simpa using empty

/-! ### Frames of reports and the ack timer (R143, R147, R148) -/

/-- R148: the expiry of the ack timer. -/
theorem ReportUnit.fits.ackExpired {u : ReportUnit} (h : u.fits) {timer : AckTimer} (running : u.ackTimer = some timer)
    (now : Clock) : (u.ackExpired now).fits := by
  obtain ⟨front, back, order, pace⟩ := ReportUnit.fits_iff.1 h
  obtain ⟨flowing, nonempty⟩ := pace.timer.1 (by rw [running]; rfl)
  obtain ⟨-, mem⟩ := oldestSent_of_parts order.sent order.unsent
  rw [← order.queue] at mem
  unfold ReportUnit.ackExpired
  split
  · next more =>
    refine ReportUnit.fits_iff.2 ⟨front, back, order.congr rfl rfl rfl,
      ?_, ?_, ?_, fun q resend => ⟨flowing, mem q resend⟩⟩
    · exact Nat.le_of_lt more
    · simp [flowing, Nat.ne_of_lt more]
    · simp [flowing, nonempty]
  · exact ReportUnit.fits_iff.2 ⟨front, back, order.congr rfl rfl rfl,
      by simp, by simp, by simp, by simp⟩

theorem nextSent_mem {q q' : Byte} {queue : List ReportEntry} (h : nextSent q queue = some q') :
    ∃ e ∈ queue, e.status = .sent q' := by
  induction queue with
  | nil => cases h
  | cons e rest ih =>
    have found : ∃ e ∈ rest, e.status = .sent q' := by
      unfold nextSent at h
      split at h
      · exact oldestSent_mem h
      · exact ih h
    obtain ⟨e, mem, status⟩ := found
    exact ⟨e, List.mem_cons_of_mem _ mem, status⟩

/-- R143: the oldest UNSENT entry stands behind the SENT front. -/
theorem sendOldest_some {q : Byte} {front back after : List ReportEntry} {r : Report}
    (sent : ∀ e ∈ front, e.status.isSent = true) (unsent : ∀ e ∈ back, e.status.isSent = false)
    (h : sendOldest q (front ++ back) = some (r, after)) :
    ∃ later, back = ⟨r, .unsent⟩ :: later ∧ after = front ++ ⟨r, .sent q⟩ :: later := by
  have passed : ∀ e ∈ front, e.status ≠ .unsent := fun e he status => by
    have := sent e he
    rw [status] at this
    cases this
  cases back with
  | nil =>
    exfalso
    rw [List.append_nil] at h
    clear unsent
    induction front generalizing after with
    | nil => cases h
    | cons e front ih =>
      obtain ⟨report, status⟩ := e
      cases status with
      | unsent => exact passed _ List.mem_cons_self rfl
      | sent q' =>
        simp only [sendOldest, Option.map_eq_some_iff] at h
        obtain ⟨⟨r', after'⟩, next, parts⟩ := h
        cases parts
        exact ih (fun e he => sent e (List.mem_cons_of_mem _ he))
          (fun e he => passed e (List.mem_cons_of_mem _ he)) next
  | cons e later =>
    obtain ⟨report, status⟩ := e
    cases status with
    | sent q' => cases unsent ⟨report, .sent q'⟩ List.mem_cons_self
    | unsent =>
      rw [sendOldest_eq passed] at h
      cases h
      exact ⟨later, rfl, rfl⟩

/-- R143: a report frame begins: a SENT entry again, or the oldest UNSENT one for the first time. -/
theorem ReportUnit.fits.beginFrame {u u' : ReportUnit} (h : u.fits) {now : Clock} {q : Byte} {body : List Byte}
    (begun : u.beginFrame now = some (q, body, u')) :
    u'.fits ∧ u'.queue.filterMap ReportEntry.resultTag? = u.queue.filterMap ReportEntry.resultTag? := by
  obtain ⟨front, back, order, pace⟩ := ReportUnit.fits_iff.1 h
  obtain ⟨sentEq, -⟩ := order.entries
  unfold ReportUnit.beginFrame at begun
  split at begun
  · cases begun
  · next flowing =>
    split at begun
    · next q₀ point =>
      simp only [Option.map_eq_some_iff, Prod.mk.injEq] at begun
      obtain ⟨e, -, -, -, rfl⟩ := begun
      refine ⟨ReportUnit.fits_iff.2 ⟨front, back, order.congr rfl rfl rfl,
        pace.rounds, pace.stalled, pace.timer, fun q' next => ⟨flowing, ?_⟩⟩, rfl⟩
      obtain ⟨e, mem, status⟩ := nextSent_mem next
      rw [order.queue] at mem
      rcases List.mem_append.1 mem with mem | mem
      · exact ⟨e, mem, status⟩
      · have := order.unsent e mem
        rw [status] at this
        cases this
    · next point =>
      simp only [sentEq, order.queue, Option.ite_none_right_eq_some, Option.map_eq_some_iff, Prod.mk.injEq] at begun
      obtain ⟨room, ⟨r, after⟩, send, -, -, rfl⟩ := begun
      obtain ⟨later, rfl, rfl⟩ := sendOldest_some order.sent order.unsent send
      refine ⟨ReportUnit.fits_iff.2 ⟨front ++ [⟨r, .sent u.nextSeq⟩], later,
        ⟨?_, fun e he => ?_, fun e he => order.unsent e (List.mem_cons_of_mem _ he), rfl, ?_, ?_,
          (List.pairwise_cons.1 order.distinct).2, ?_⟩, pace.rounds, ?_, ?_, ?_⟩, ?_⟩
      · simp
      · rcases List.mem_append.1 he with he | he
        · exact order.sent e he
        · rw [List.mem_singleton.1 he]; rfl
      · rw [List.length_append]
        exact room
      · rw [List.map_append, order.numbers, List.length_append]
        exact (sentNumbers_succ _ _).symm
      · have := order.ready
        rw [order.queue] at this
        simpa [List.countP_append, List.countP_cons] using this
      · exact pace.stalled
      · show (if front.isEmpty then some (⟨now, u.ackTimeout⟩ : AckTimer) else u.ackTimer).isSome = true ↔
          u.link = .flowing ∧ _
        cases front with
        | nil => simp [flowing]
        | cons e front => simpa [flowing] using pace.timer
      · show ∀ q ∈ u.resendPoint, _
        simp [point]
      · rw [order.queue, ReportUnit.setQueue_queue]
        simp [List.filterMap_append, List.filterMap_cons, ReportEntry.resultTag?]

end Sys2Proof.Machine
end

section
/-!
SUPPORT. The live set beside the report queue, and what each operation on requests does to the two.
-/

namespace Sys2Proof.Machine

/-! ### The request on the line and the REPORTED ones (R30, R38, R49) -/

/-- The tag and the destination of the request that the exchange in progress serves. -/
def LineEngine.service? (g : LineEngine) : Option (Half × Dest) :=
  g.record?.bind fun r =>
    match r.origin with
    | .request tag => some (tag, r.station)
    | .poll _ | .recoveryPoll _ | .probe _ | .fallback => none

theorem LineEngine.service?_of_record {g g' : LineEngine} (h : g'.record? = g.record?) : g'.service? = g.service? := by
  rw [LineEngine.service?, LineEngine.service?, h]

theorem LineEngine.service?_of_idle {g : LineEngine} (idle : g.exchange = none) : g.service? = none := by
  simp [LineEngine.service?, LineEngine.record?, idle]

theorem LineEngine.service?_of_request {g : LineEngine} {x : Exchange} {tag : Half} (on : g.exchange = some x)
    (origin : x.record.origin = .request tag) : g.service? = some (tag, x.record.station) := by
  simp [LineEngine.service?, LineEngine.record?, on, origin]

theorem LineEngine.service?_of_other {g : LineEngine} {x : Exchange} (on : g.exchange = some x)
    (origin : x.record.origin.isRequest = false) : g.service? = none := by
  cases kind : x.record.origin <;> simp [LineEngine.service?, LineEngine.record?, on, kind]
  simp [kind, Origin.isRequest] at origin

theorem LineEngine.servedTag?_eq (g : LineEngine) : g.servedTag? = g.service?.map Prod.fst := by
  unfold LineEngine.servedTag? LineEngine.service? LineEngine.record?
  cases g.exchange with
  | none => rfl
  | some x => cases origin : x.record.origin <;> simp [origin]

/-- R29 to R31, R42, R132, R143: the live set and the report queue in agreement, while the request with the tag and
the destination of `service` is on the line. -/
structure Queues (service : Option (Half × Dest)) (s : State) : Prop where
  count : s.requests.length ≤ 16
  nodup : (s.requests.map fun r => r.tag).Nodup
  fits : ∀ r ∈ s.requests, r.fits
  onLine : ∀ r ∈ s.requests, r.state = .onLine ↔ service.map Prod.fst = some r.tag
  served : ∀ tag d, service = some (tag, d) → ∃ r ∈ s.requests, r.tag = tag ∧ r.station = d
  results : s.resultTags.Perm s.reportedTags
  reports : s.reports.fits

section Queues

variable {service : Option (Half × Dest)} {s t : State}

theorem Queues.congr (h : Queues service s) (requests : t.requests = s.requests) (reports : t.reports = s.reports) :
    Queues service t where
  count := by rw [requests]; exact h.count
  nodup := by rw [requests]; exact h.nodup
  fits := by rw [requests]; exact h.fits
  onLine := by rw [requests]; exact h.onLine
  served := by rw [requests]; exact h.served
  results := by rw [State.resultTags, State.reportedTags, requests, reports]; exact h.results
  reports := by rw [reports]; exact h.reports

/-- A change of the Report Unit that leaves its RESULT reports. -/
theorem Queues.withReports (h : Queues service s) (requests : t.requests = s.requests) (fits : t.reports.fits)
    (results : t.resultTags = s.resultTags) : Queues service t where
  count := by rw [requests]; exact h.count
  nodup := by rw [requests]; exact h.nodup
  fits := by rw [requests]; exact h.fits
  onLine := by rw [requests]; exact h.onLine
  served := by rw [requests]; exact h.served
  results := by rw [results, State.reportedTags, requests]; exact h.results
  reports := fits

theorem Queues.putReport (h : Queues service s) {r : Report} (merges : r.merges = true) :
    Queues service (s.putReport r) :=
  h.withReports rfl (h.reports.place merges) (placeReport_merges merges _).1

/-- The requests a change makes REPORTED stand behind those that were. -/
theorem reported_map_perm {requests : List Request} {f : Request → Request} (tags : ∀ r, (f r).tag = r.tag)
    (kept : ∀ r ∈ requests, r.state = .reported → (f r).state = .reported) :
    (((requests.filter fun r => r.state == .reported).map fun r => r.tag) ++
      (requests.filter fun r => r.state != .reported && (f r).state == .reported).map fun r => r.tag).Perm
      (((requests.map f).filter fun r => r.state == .reported).map fun r => r.tag) := by
  have same : ((requests.map f).filter fun r => r.state == .reported).map (fun r => r.tag) =
      (requests.filter fun r => (f r).state == .reported).map fun r => r.tag := by
    rw [List.filter_map, List.map_map]
    exact List.map_congr_left fun r _ => tags r
  have old : (requests.filter fun r => (f r).state == .reported).filter (fun r => r.state == .reported) =
      requests.filter fun r => r.state == .reported := by
    rw [List.filter_filter]
    refine List.filter_congr fun r hr => ?_
    cases state : r.state <;> simp
    exact kept r hr state
  have new : (requests.filter fun r => (f r).state == .reported).filter (fun r => !(r.state == .reported)) =
      requests.filter fun r => r.state != .reported && (f r).state == .reported := by
    rw [List.filter_filter]
    rfl
  rw [same, ← List.map_append, ← old, ← new]
  exact (List.filter_append_perm _ _).map _

/-- A change of the live set that keeps tags and destinations, with a RESULT report for each request it completes. -/
theorem Queues.change (h : Queues service s) {service' : Option (Half × Dest)} {f : Request → Request}
    (requests : t.requests = s.requests.map f) (keeps : ∀ r, (f r).tag = r.tag ∧ (f r).station = r.station)
    (fits : ∀ r ∈ s.requests, (f r).fits)
    (reported : ∀ r ∈ s.requests, r.state = .reported → (f r).state = .reported)
    (onLine : ∀ r ∈ s.requests, (f r).state = .onLine ↔ service'.map Prod.fst = some r.tag)
    (served : ∀ tag d, service' = some (tag, d) → ∃ r ∈ s.requests, r.tag = tag ∧ r.station = d)
    (ordered : t.reports.fits)
    (results : t.resultTags = s.resultTags ++
      (s.requests.filter fun r => r.state != .reported && (f r).state == .reported).map fun r => r.tag) :
    Queues service' t where
  count := by rw [requests, List.length_map]; exact h.count
  nodup := by
    have tags : (fun r : Request => r.tag) ∘ f = fun r => r.tag := funext fun r => (keeps r).1
    rw [requests, List.map_map, tags]
    exact h.nodup
  fits := by
    rw [requests]
    exact List.forall_mem_map.2 fits
  onLine := by
    rw [requests]
    refine List.forall_mem_map.2 fun r hr => ?_
    rw [(keeps r).1]
    exact onLine r hr
  served := fun tag d some => by
    obtain ⟨r, hr, tagEq, station⟩ := served tag d some
    rw [requests]
    exact ⟨f r, List.mem_map_of_mem hr, (keeps r).1.trans tagEq, (keeps r).2.trans station⟩
  results := by
    rw [results, State.reportedTags, requests]
    exact (h.results.append_right _).trans (reported_map_perm (fun r => (keeps r).1) reported)
  reports := ordered

/-- R42: a request that is not REPORTED has made no more attempts than its allowance. -/
theorem Request.fits.attempts {r : Request} (h : r.fits) (live : r.state ≠ .reported) : r.attempts ≤ r.allowance := by
  obtain ⟨-, -, -, attempts, -⟩ := h
  rwa [if_neg live] at attempts

/-- R29: only the attempts and the state of a record change. -/
theorem Request.fits.progress {r : Request} (h : r.fits) {attempts : Nat} {last : Option ExOutcome}
    {state : RequestState}
    (bound : if state = .reported then attempts ≤ r.allowance + 1 else attempts ≤ r.allowance) :
    ({ r with attempts := attempts, lastOutcome := last, state := state } : Request).fits := by
  obtain ⟨low, high, allowance, -, broadcast, payload⟩ := h
  exact ⟨low, high, allowance, bound, broadcast, payload⟩

theorem Request.fits.reported {r : Request} (h : r.fits) (live : r.state ≠ .reported) :
    ({ r with state := .reported } : Request).fits :=
  h.progress (by rw [if_pos rfl]; exact Nat.le_succ_of_le (h.attempts live))

/-- R31: the tag of a live request is its own. -/
theorem Queues.eq_of_tag (h : Queues service s) {q r : Request} (hq : q ∈ s.requests) (hr : r ∈ s.requests)
    (same : q.tag = r.tag) : q = r := List.inj_on_of_nodup_map h.nodup hq hr same

/-! ### One request (R38, R40 to R44, R49) -/

section One

variable {r : Request} {g : Request → Request}

/-- A change of the one request that holds a tag. -/
def Request.changed (tag : Half) (g : Request → Request) (q : Request) : Request := if q.tag = tag then g q else q

/-- A change of one live request. -/
theorem Queues.changeOne (h : Queues service s) {service' : Option (Half × Dest)} (mem : r ∈ s.requests)
    (old : r.state ≠ .reported) (requests : t.requests = s.requests.map (Request.changed r.tag g))
    (keeps : ∀ q, (g q).tag = q.tag ∧ (g q).station = q.station) (fits : (g r).fits)
    (own : (g r).state = .onLine ↔ service'.map Prod.fst = some r.tag)
    (others : ∀ q ∈ s.requests, q.tag ≠ r.tag → (q.state = .onLine ↔ service'.map Prod.fst = some q.tag))
    (served : ∀ tag d, service' = some (tag, d) → r.tag = tag ∧ r.station = d ∨ service = some (tag, d))
    (ordered : t.reports.fits)
    (results : t.resultTags = s.resultTags ++ if (g r).state = .reported then [r.tag] else []) :
    Queues service' t := by
  have changed : ∀ q ∈ s.requests,
      q.tag = r.tag ∧ q = r ∧ Request.changed r.tag g q = g r ∨ q.tag ≠ r.tag ∧ Request.changed r.tag g q = q := by
    intro q hq
    by_cases same : q.tag = r.tag
    · have eq := h.eq_of_tag hq mem same
      subst eq
      exact .inl ⟨rfl, rfl, if_pos rfl⟩
    · exact .inr ⟨same, if_neg same⟩
  refine h.change requests (fun q => ?_) (fun q hq => ?_) (fun q hq state => ?_) (fun q hq => ?_)
    (fun tag d some => ?_) ordered ?_
  · unfold Request.changed
    split
    · exact keeps q
    · exact ⟨rfl, rfl⟩
  · rcases changed q hq with ⟨-, -, eq⟩ | ⟨-, eq⟩ <;> rw [eq]
    · exact fits
    · exact h.fits q hq
  · rcases changed q hq with ⟨-, rfl, -⟩ | ⟨-, eq⟩
    · exact absurd state old
    · rw [eq]; exact state
  · rcases changed q hq with ⟨same, -, eq⟩ | ⟨other, eq⟩ <;> rw [eq]
    · rw [same]; exact own
    · exact others q hq other
  · rcases served tag d some with ⟨tagEq, station⟩ | before
    · exact ⟨r, mem, tagEq, station⟩
    · exact h.served tag d before
  · have only : (s.requests.filter fun q =>
        q.state != .reported && (Request.changed r.tag g q).state == .reported) =
        if (g r).state = .reported then s.requests.filter (fun q => q.tag == r.tag) else [] := by
      split
      · next done =>
        refine List.filter_congr fun q hq => ?_
        rcases changed q hq with ⟨-, rfl, eq⟩ | ⟨other, eq⟩ <;> rw [eq]
        · simp [old, done]
        · rw [beq_false_of_ne other]
          cases q.state <;> rfl
      · next open_ =>
        refine List.filter_eq_nil_iff.2 fun q hq => ?_
        rcases changed q hq with ⟨-, -, eq⟩ | ⟨-, eq⟩ <;> rw [eq]
        · simp [open_]
        · cases state : q.state <;> simp
    have alone : (s.requests.filter fun q => q.tag == r.tag).map (fun q => q.tag) = [r.tag] := by
      have tags : (s.requests.filter fun q => q.tag == r.tag).map (fun q => q.tag) =
          (s.requests.map fun q => q.tag).filter (· == r.tag) := by
        rw [List.filter_map]; rfl
      rw [tags, List.filter_beq, List.count_eq_one_of_mem h.nodup (List.mem_map_of_mem mem)]
      rfl
    rw [results, only]
    split <;> simp [alone]


/-- R49: a live request that is not REPORTED gets its final result and its RESULT report. -/
theorem Queues.finish (h : Queues service s) (mem : r ∈ s.requests) (old : r.state ≠ .reported)
    (requests : t.requests = s.requests.map (Request.changed r.tag g))
    (keeps : ∀ q, (g q).tag = q.tag ∧ (g q).station = q.station) (fits : (g r).fits)
    (done : (g r).state = .reported) {kind : RequestKind} {result : RequestResult} {attempts : Nat}
    {last : Option ExOutcome} {data : List Byte}
    (reports : t.reports =
      { s.reports with
        queue := s.reports.queue ++ [⟨.result r.tag kind result attempts last data, .unsent⟩], attn := true }) :
    Queues (if r.state = .onLine then none else service) t := by
  have elsewhere : r.state = .onLine → ∀ q ∈ s.requests, q.tag ≠ r.tag → q.state ≠ .onLine := by
    intro on q hq other line
    have same := ((h.onLine q hq).1 line).symm.trans ((h.onLine r mem).1 on)
    exact other (Option.some.inj same)
  refine h.changeOne mem old requests keeps fits ?_ (fun q hq other => ?_) (fun tag d some => ?_) ?_ ?_
  · rw [done]
    split
    · simp
    · next off =>
      refine iff_of_false (by simp) fun served => off ((h.onLine r mem).2 served)
  · split
    · next on => exact iff_of_false (elsewhere on q hq other) (by simp)
    · exact h.onLine q hq
  · split at some
    · cases some
    · exact .inr some
  · exact h.reports.append (added := [⟨.result r.tag kind result attempts last data, .unsent⟩])
      (List.forall_mem_singleton.2 ⟨rfl, rfl⟩) (by rw [reports]; simp)
  · rw [if_pos done, State.resultTags, State.resultTags, reports]
    simp [ReportEntry.resultTag?]

/-- R39, R42: the request on the line returns to WAITING. -/
theorem Queues.release (h : Queues service s) (mem : r ∈ s.requests) (on : r.state = .onLine)
    (requests : t.requests = s.requests.map (Request.changed r.tag g))
    (keeps : ∀ q, (g q).tag = q.tag ∧ (g q).station = q.station) (fits : (g r).fits)
    (waits : (g r).state = .waiting) (reports : t.reports = s.reports) : Queues none t := by
  refine h.changeOne mem (by rw [on]; decide) requests keeps fits (by simp [waits]) (fun q hq other => ?_)
    (fun _ _ some => by cases some) (by rw [reports]; exact h.reports) ?_
  · refine iff_of_false (fun line => other ?_) (by simp)
    exact Option.some.inj (((h.onLine q hq).1 line).symm.trans ((h.onLine r mem).1 on))
  · rw [waits, State.resultTags, State.resultTags, reports]
    simp

/-- R38, R67: a WAITING request goes on the line, where no other is. -/
theorem Queues.serve (h : Queues none s) (mem : r ∈ s.requests) (waiting : r.state = .waiting)
    (requests : t.requests = s.requests.map (Request.changed r.tag fun q => { q with state := .onLine }))
    (reports : t.reports = s.reports) : Queues (some (r.tag, r.station)) t := by
  have fits := h.fits r mem
  refine h.changeOne mem (by rw [waiting]; decide) requests (fun q => ⟨rfl, rfl⟩) ?_ (by simp)
    (fun q hq other => ?_) (fun tag d some => ?_) (by rw [reports]; exact h.reports) ?_
  · simpa [Request.fits, waiting] using fits
  · refine iff_of_false (fun line => ?_) fun same => other (Option.some.inj same).symm
    cases (h.onLine q hq).1 line
  · cases some
    exact .inl ⟨rfl, rfl⟩
  · rw [State.resultTags, State.resultTags, reports]
    simp

end One

/-- R36, R39, R45, R46: a WAITING request removed with its final result. -/
theorem Queues.completeRequest (h : Queues service s) {tag : Half}
    (waiting : ∀ r, s.findRequest tag = some r → r.state = .waiting) (result : RequestResult) (data : List Byte) :
    Queues service (s.completeRequest tag result data) := by
  cases found : s.findRequest tag with
  | none =>
    have same : s.completeRequest tag result data = s := by simp [State.completeRequest, found]
    rw [same]; exact h
  | some r =>
    have tagEq := State.findRequest_tag found
    subst tagEq
    have state := waiting r found
    have mem := State.findRequest_mem found
    have done := h.finish (t := s.completeRequest r.tag result data) (g := fun q => { q with state := .reported }) mem
      (by rw [state]; decide)
      (by rw [State.completeRequest_eq found]; rfl) (fun q => ⟨rfl, rfl⟩)
      ((h.fits r mem).reported (by rw [state]; decide))
      rfl (by rw [State.completeRequest_eq found])
    rwa [if_neg (by rw [state]; decide)] at done

/-- R47, R48: every request waiting for a station removed with its final result. -/
theorem Queues.removeWaiting (h : Queues service s) (a : Addr) (result : RequestResult) :
    Queues service (s.removeWaiting a result) := by
  rw [State.removeWaiting_eq h.nodup]
  refine h.change (f := Request.removedFor a) rfl (fun r => ?_) (fun r hr => ?_) (fun r hr state => ?_) (fun r hr => ?_)
    h.served ?_ ?_
  · unfold Request.removedFor
    split <;> exact ⟨rfl, rfl⟩
  · unfold Request.removedFor
    split
    · next waits =>
      exact (h.fits r hr).reported (by rw [waits.1]; decide)
    · exact h.fits r hr
  · unfold Request.removedFor
    rw [if_neg (by rw [state]; simp)]
    exact state
  · rw [← h.onLine r hr]
    unfold Request.removedFor
    split
    · next waits => simp [waits.1]
    · rfl
  · refine h.reports.append (added := (s.requests.filter (Request.waitsFor a)).map fun r =>
      ⟨.result r.tag r.kind result r.attempts r.lastOutcome [], .unsent⟩) ?_ ?_
    · refine List.forall_mem_map.2 fun r _ => ⟨rfl, rfl⟩
    · obtain ⟨attn, -⟩ := h.reports
      have nonempty : s.requests.any (Request.waitsFor a) = !(s.requests.filter (Request.waitsFor a)).isEmpty := by
        rw [Bool.eq_iff_iff]; simp
      rw [attn, nonempty]
      cases s.reports.queue <;> simp
  · have newly : (fun r : Request => r.state != .reported && (r.removedFor a).state == .reported) =
        Request.waitsFor a := by
      funext r
      rw [Bool.eq_iff_iff, Request.waitsFor]
      unfold Request.removedFor
      split
      · next waits => simp [waits]
      · next stays => simpa using stays
    rw [newly, State.resultTags, State.resultTags, List.filterMap_append]
    congr 1
    rw [List.filterMap_map, ← List.filterMap_eq_map]
    rfl

/-- R32 to R35: a request joins the live set. -/
theorem Queues.accept (h : Queues service s) {r : Request} (room : s.requests.length < 16)
    (fresh : ∀ q ∈ s.requests, q.tag ≠ r.tag) (fits : r.fits) (waiting : r.state = .waiting)
    (requests : t.requests = s.requests ++ [r]) (reports : t.reports = s.reports) : Queues service t where
  count := by rw [requests, List.length_append]; exact room
  nodup := by
    rw [requests, List.map_append, List.map_cons, List.map_nil, List.nodup_append]
    refine ⟨h.nodup, List.nodup_singleton _, fun tag htag tag' htag' => ?_⟩
    obtain ⟨q, hq, rfl⟩ := List.mem_map.1 htag
    rw [List.mem_singleton.1 htag']
    exact fresh q hq
  fits := by
    rw [requests]
    intro q hq
    rcases List.mem_append.1 hq with hq | hq
    · exact h.fits q hq
    · rw [List.mem_singleton.1 hq]; exact fits
  onLine := by
    rw [requests]
    intro q hq
    rcases List.mem_append.1 hq with hq | hq
    · exact h.onLine q hq
    · rw [List.mem_singleton.1 hq, waiting]
      refine iff_of_false (by decide) fun served => ?_
      obtain ⟨⟨tag, d⟩, some, tagEq⟩ := Option.map_eq_some_iff.1 served
      obtain ⟨q, hq, same, -⟩ := h.served tag d some
      exact fresh q hq (same.trans tagEq)
  served := fun tag d some => by
    obtain ⟨q, hq, parts⟩ := h.served tag d some
    rw [requests]
    exact ⟨q, List.mem_append_left _ hq, parts⟩
  results := by
    have same : t.reportedTags = s.reportedTags := by
      simp [State.reportedTags, requests, List.filter_append, waiting]
    rw [same, State.resultTags, reports]
    exact h.results
  reports := by rw [reports]; exact h.reports

/-- R51, R145, R149: the RESULT reports an ACK removes take their requests out of the live set. -/
theorem Queues.applyAck (h : Queues service s) (q : Byte) : Queues service (s.applyAck q).goodFrame := by
  have reports : (s.applyAck q).goodFrame.reports = (s.applyAck q).reports.stallEnded s.clock := by
    rw [State.goodFrame_eq]; simp
  cases split : splitAck q s.reports.queue with
  | none =>
    have unmatched : s.applyAck q = s.withReports fun u => { u with unknownAcks := satInc u.unknownAcks } := by
      simp [State.applyAck, split]
    refine h.withReports (by simp [unmatched]) ?_ ?_
    · rw [reports, unmatched]
      exact ReportUnit.fits.stallEnded (u := { s.reports with unknownAcks := satInc s.reports.unknownAcks }) h.reports _
    · rw [State.resultTags, reports, ReportUnit.stallEnded_queue, unmatched]
      rfl
  | some parts =>
    obtain ⟨removed, rest⟩ := parts
    have matched : s.applyAck q = (s.withReports (ReportUnit.acked s.clock removed rest)).releaseTags
        (removed.filterMap ReportEntry.resultTag?) := by
      simp [State.applyAck, split]
    generalize tags : removed.filterMap ReportEntry.resultTag? = released at matched
    have queue : s.reports.queue = removed ++ rest := splitAck_queue split
    have before : s.resultTags = released ++ rest.filterMap ReportEntry.resultTag? := by
      rw [State.resultTags, queue, List.filterMap_append, tags]
    have requests : (s.applyAck q).goodFrame.requests = s.requests.filter fun r => !released.contains r.tag := by
      rw [State.goodFrame_requests, matched]; rfl
    have results : (s.applyAck q).goodFrame.resultTags = rest.filterMap ReportEntry.resultTag? := by
      rw [State.resultTags, reports, ReportUnit.stallEnded_queue, matched]; rfl
    have distinct : (released ++ rest.filterMap ReportEntry.resultTag?).Nodup := by
      rw [← before, h.results.nodup_iff]
      exact h.nodup.sublist (List.Sublist.map _ List.filter_sublist)
    -- a released tag is that of a REPORTED request
    have isReported : ∀ r ∈ s.requests, r.tag ∈ released → r.state = .reported := by
      intro r hr free
      have listed : r.tag ∈ s.reportedTags := by
        rw [← h.results.mem_iff, before]
        exact List.mem_append_left _ free
      obtain ⟨q, hq, same⟩ := List.mem_map.1 listed
      obtain ⟨hq, state⟩ := List.mem_filter.1 hq
      rw [← h.eq_of_tag hq hr same]
      simpa using state
    have kept : ∀ r ∈ (s.applyAck q).goodFrame.requests, r ∈ s.requests := by
      rw [requests]
      exact fun r hr => (List.mem_filter.1 hr).1
    have part : (s.applyAck q).goodFrame.requests.Sublist s.requests := by
      rw [requests]
      exact List.filter_sublist
    refine ⟨part.length_le.trans h.count, h.nodup.sublist (part.map _), fun r hr => h.fits r (kept r hr),
      fun r hr => h.onLine r (kept r hr), fun tag d some => ?_, ?_, ?_⟩
    · obtain ⟨r, hr, tagEq, station⟩ := h.served tag d some
      refine ⟨r, ?_, tagEq, station⟩
      have line : r.state = .onLine := (h.onLine r hr).2 (by rw [some, tagEq]; rfl)
      rw [requests, List.mem_filter]
      refine ⟨hr, ?_⟩
      rw [Bool.not_eq_true', ← Bool.not_eq_true, List.contains_iff_mem]
      intro free
      rw [isReported r hr free] at line
      cases line
    · have remaining : (s.applyAck q).goodFrame.reportedTags =
          s.reportedTags.filter fun tag => !released.contains tag := by
        rw [State.reportedTags, State.reportedTags, requests, List.filter_map, List.filter_filter, List.filter_filter]
        congr 1
        refine List.filter_congr fun r _ => ?_
        exact Bool.and_comm _ _
      have others : rest.filterMap ReportEntry.resultTag? =
          s.resultTags.filter fun tag => !released.contains tag := by
        rw [before, List.filter_append, List.filter_eq_nil_iff.2 (by simp), List.nil_append, List.filter_eq_self.2]
        intro tag htag
        simpa using fun free => (List.nodup_append.1 distinct).2.2 tag free tag htag rfl
      rw [results, remaining, others]
      exact h.results.filter _
    · rw [reports, matched]
      exact h.reports.acked split s.clock

end Queues

end Sys2Proof.Machine
end

section
/-!
SUPPORT. What the end of an exchange does to the live set and the report queue, and the device between two events.
-/

namespace Sys2Proof.Machine

section Queues

variable {service : Option (Half × Dest)} {s t : State}

/-! ### The fate of the request served (R39 to R44) -/

/-- The request on the line is the one served. -/
theorem Queues.on_line {tag : Half} {d : Dest} (h : Queues (some (tag, d)) s) :
    ∃ r, s.findRequest tag = some r ∧ r ∈ s.requests ∧ r.tag = tag ∧ r.station = d ∧ r.state = .onLine := by
  obtain ⟨r, mem, tagEq, station⟩ := h.served tag d rfl
  refine ⟨r, ?_, mem, tagEq, station, (h.onLine r mem).2 (by rw [tagEq]; rfl)⟩
  rw [← tagEq]
  exact State.findRequest_of_mem h.nodup mem

/-- R42: a request that returns to WAITING has attempts left. -/
theorem Request.attempts_of_fate_none {now : Clock} {orphaned : Bool} {outcome : ExOutcome} {r : Request}
    (collision : ∀ detail, outcome ≠ .collision detail) (h : r.fate now orphaned outcome = none) :
    r.attempts ≤ r.allowance := by
  have miss : r.missFate now orphaned = none := by
    cases outcome with
    | collision detail => exact absurd rfl (collision detail)
    | good => cases h
    | refused reason => cases h
    | sent => cases h
    | noReply => exact h
    | garbled detail => exact h
    | wrongSource => exact h
    | stale => exact h
  unfold Request.missFate at miss
  split at miss
  · cases miss
  split at miss
  · cases miss
  · next within => omega

/-- R40 to R44: the fate of the request that was on the line. -/
theorem Queues.decideRequest {tag : Half} {dest : Dest} (h : Queues (some (tag, dest)) s) {d : Delivery}
    (collision : ∀ detail, d.outcome ≠ .collision detail) : Queues none (s.decideRequest tag d) := by
  obtain ⟨r, found, mem, rfl, -, line⟩ := h.on_line
  have live : r.state ≠ .reported := by rw [line]; decide
  have within := (h.fits r mem).attempts live
  rw [State.decideRequest_eq d found]
  cases fate : (r.attempted d.outcome).fate s.clock d.record.orphaned d.outcome with
  | none =>
    refine h.release mem line (g := fun q => { q.attempted d.outcome with state := .waiting }) rfl
      (fun q => ⟨rfl, rfl⟩) ((h.fits r mem).progress ?_) rfl rfl
    rw [if_neg (by decide)]
    exact Request.attempts_of_fate_none collision fate
  | some result =>
    have found' : (s.updateRequest r.tag (Request.attempted d.outcome)).findRequest r.tag =
        some (r.attempted d.outcome) := by
      rw [State.findRequest_updateRequest (by intro; rfl), found]; rfl
    dsimp only
    rw [State.completeRequest_eq found']
    have done := h.finish (g := fun q => { q.attempted d.outcome with state := .reported })
      (t := { s.updateRequest r.tag (Request.attempted d.outcome) with
        requests := (s.updateRequest r.tag (Request.attempted d.outcome)).requests.map fun q =>
          if q.tag = r.tag then { q with state := .reported } else q
        reports :=
          { s.reports with
            queue := s.reports.queue ++ [⟨.result r.tag r.kind result (r.attempts + 1) (some d.outcome)
              (if result = .done then r.resultData d.data else []), .unsent⟩]
            attn := true } })
      mem live ?_ (fun q => ⟨rfl, rfl⟩) ((h.fits r mem).progress ?_) rfl rfl
    · rwa [if_pos line] at done
    · simp only [State.updateRequest, State.withRequests, List.map_map]
      refine List.map_congr_left fun q _ => ?_
      by_cases own : q.tag = r.tag <;> simp [Request.changed, Request.attempted, own]
    · rw [if_pos rfl]
      exact Nat.succ_le_succ within

/-- R39, R44: the request of an undone commitment. -/
theorem Queues.undoRequest {tag : Half} {dest : Dest} (h : Queues (some (tag, dest)) s) (orphaned : Bool)
    (collision : Option ExOutcome) : Queues none (s.undoRequest tag orphaned collision) := by
  obtain ⟨r, found, mem, rfl, -, line⟩ := h.on_line
  have live : r.state ≠ .reported := by rw [line]; decide
  have within := (h.fits r mem).attempts live
  have final : ∀ result, Queues none (s.undoneWith r collision result) := by
    intro result
    have done := h.finish (g := fun q => { q with lastOutcome := collision.or q.lastOutcome, state := .reported })
      (t := s.undoneWith r collision result) mem live rfl (fun q => ⟨rfl, rfl⟩)
      ((h.fits r mem).progress (by rw [if_pos rfl]; exact Nat.le_succ_of_le within)) rfl rfl
    rwa [if_pos line] at done
  cases orphaned with
  | true =>
    rw [State.undoRequest_final found collision (.inl ⟨rfl, rfl⟩)]
    exact final _
  | false =>
    cases passed : r.deadlinePassed s.clock with
    | true =>
      rw [State.undoRequest_final found collision (.inr ⟨rfl, passed, rfl⟩)]
      exact final _
    | false =>
      rw [State.undoRequest_waiting found collision passed]
      exact h.release mem line (g := fun q => { q with lastOutcome := collision.or q.lastOutcome, state := .waiting })
        rfl (fun q => ⟨rfl, rfl⟩) ((h.fits r mem).progress (by rw [if_neg (by decide)]; exact within)) rfl rfl

/-! ### Outcomes at a station (R17 to R24) -/

theorem Queues.setStation (h : Queues service s) (a : Addr) (e : Station) : Queues service (s.setStation a e) :=
  h.congr rfl rfl

theorem Queues.enterLost (h : Queues service s) (a : Addr) (fromState : StationState) :
    Queues service (s.enterLost a fromState) :=
  Queues.removeWaiting (Queues.putReport (h.setStation a _) rfl) a .stationLost

theorem Queues.hailAnswered (h : Queues service s) (a : Addr) (must : Option Identity) (identity : Identity)
    (reason : StationReason) : Queues service (s.hailAnswered a must identity reason) := by
  unfold State.hailAnswered
  dsimp only
  split
  · exact (h.setStation a _).putReport rfl
  · exact (h.setStation a _).putReport rfl

theorem Queues.handleImage (h : Queues service s) (a : Addr) (recorded : Option Nat) (data : List Byte) :
    Queues service (s.handleImage a recorded data) := by
  unfold State.handleImage
  split
  · unfold State.storeImage
    dsimp only
    split
    · exact (h.setStation a _).putReport rfl
    · exact h.setStation a _
  · exact h

theorem Queues.missed (h : Queues service s) (a : Addr) : Queues service (s.missed a) := by
  unfold State.missed
  dsimp only
  split
  · exact h.setStation a _
  · exact h.enterLost a _

/-- R17: the Station Table completes requests, and queues reports that merge. -/
theorem Queues.applyOutcome (h : Queues service s) (a : Addr) (d : Delivery) : Queues service (s.applyOutcome a d) := by
  have counted : Queues service (s.withStation a (Station.count s.clock d)) := h.setStation a _
  unfold State.applyOutcome
  dsimp only
  cases ((s.withStation a (Station.count s.clock d)).station a).state with
  | probing =>
    dsimp only
    split
    · split
      · exact counted.hailAnswered a _ _ _
      · exact counted.setStation a _
    · exact counted
  | lost =>
    dsimp only
    split
    · split
      · exact counted.hailAnswered a _ _ _
      · exact counted.setStation a _
    · exact counted.removeWaiting a _
  | online | suspect =>
    dsimp only
    split
    · exact counted
    · split
      · exact counted.missed a
      · split
        · exact (counted.setStation a _).handleImage a _ _
        · exact counted.setStation a _
  | vacant | parked => exact counted

theorem Queues.cascadeUndone (h : Queues service s) (record : ExchangeRecord) :
    Queues service (s.cascadeUndone record) := by
  unfold State.cascadeUndone
  split
  · exact h
  · split
    · exact h.removeWaiting _ _
    · exact h

/-- R108, R109: an undone commitment leaves no request on the line. -/
theorem Queues.undoCommitment (h : Queues s.engine.service? s) {x : Exchange} (on : s.engine.exchange = some x)
    (collision : Option ExOutcome) : Queues none (s.undoCommitment x.record collision) := by
  unfold State.undoCommitment
  dsimp only
  cases origin : x.record.origin with
  | request tag =>
    rw [LineEngine.service?_of_request on origin] at h
    have queued : Queues (some (tag, x.record.station)) (s.withEngine fun e => { e with exchange := none }) :=
      h.congr rfl rfl
    exact (queued.undoRequest _ _).cascadeUndone _
  | poll d | recoveryPoll d | probe d =>
    rw [LineEngine.service?_of_other on (by rw [origin]; rfl)] at h
    exact h.congr (by simp) (by simp)
  | fallback =>
    rw [LineEngine.service?_of_other on (by rw [origin]; rfl)] at h
    exact h.congr rfl rfl

/-- R107: a delivered outcome leaves no request on the line. -/
theorem Queues.dispatch (h : Queues s.engine.service? s) {x : Exchange} (on : s.engine.exchange = some x)
    (f : LineEngine → LineEngine) {d : Delivery} (record : d.record = x.record)
    (collision : ∀ detail, d.outcome ≠ .collision detail) : Queues none ((s.withEngine f).dispatch d) := by
  have decided : Queues none ((s.withEngine f).queueDecides d) := by
    unfold State.queueDecides
    rw [record]
    cases origin : x.record.origin with
    | request tag =>
      rw [LineEngine.service?_of_request on origin] at h
      exact Queues.decideRequest (s := s.withEngine f) (h.congr rfl rfl) collision
    | poll d | recoveryPoll d | probe d | fallback =>
      rw [LineEngine.service?_of_other on (by rw [origin]; rfl)] at h
      exact h.congr rfl rfl
  by_cases heard : ∃ a, d.record.station = some a ∧ d.record.orphaned = false
  · obtain ⟨a, named, live⟩ := heard
    rw [State.dispatch_of_live _ named live]
    exact decided.applyOutcome a d
  · rw [State.dispatch_of_silent]
    · exact decided
    · intro a named
      by_contra live
      exact heard ⟨a, named, by simpa using live⟩

end Queues

/-! ### The device between two events -/

/-- A running device whose live set and report queue agree with the exchange in progress and with the stations. -/
structure Live (s : State) : Prop where
  running : s.held = false
  queues : Queues s.engine.service? s
  waits : ∀ r ∈ s.requests, r.state = .waiting → ∀ a ∈ r.station, (s.station a).state.serves = true

/-- What the Call Queue and the Report Unit keep. -/
structure Agreed (s : State) : Prop where
  callQueue : CallQueueOk s
  reports : ReportsOk s

section Live

variable {s t : State}

/-- R36, R38: a request on the line for a station still listed is at one that serves, or has become LOST. -/
theorem Live.agreed (h : Live s) (kept : Kept s) : Agreed s := by
  obtain ⟨running, queues, waits⟩ := h
  refine ⟨⟨queues.count, queues.nodup, queues.fits, fun r hr => ?_, fun x on request => ?_,
    fun x on a named request live => ?_, waits, queues.results⟩, queues.reports⟩
  · rw [LineEngine.servedTag?_eq]
    exact queues.onLine r hr
  · cases origin : x.record.origin with
    | request tag =>
      obtain ⟨r, hr, tagEq, station⟩ := queues.served _ _ (LineEngine.service?_of_request on origin)
      exact ⟨r, hr, by rw [tagEq], station.symm⟩
    | poll d | recoveryPoll d | probe d | fallback => rw [origin] at request; cases request
  · have timed : Timed s := kept.timetable running
    obtain ⟨-, serves | lost⟩ := Origin.fitsState_request request (timed.fitsState on named live)
    · revert serves
      cases (s.station a).state <;> simp +decide
    · exact .inr (.inr lost)

theorem DeviceOk.agreed (h : DeviceOk s) : Agreed s := ⟨h.2.2.2.1, h.2.2.2.2.1⟩

/-- Outside reset the device is as an event finds it. -/
theorem DeviceOk.live (h : DeviceOk s) (running : s.held = false) : Live s := by
  obtain ⟨-, -, -, ⟨count, nodup, fits, onLine, served, -, waits, results⟩, reports, -⟩ := h
  refine ⟨running, ⟨count, nodup, fits, fun r hr => ?_, fun tag d service => ?_, results, reports⟩, waits⟩
  · rw [← LineEngine.servedTag?_eq]
    exact onLine r hr
  · obtain ⟨record, on, same⟩ := Option.bind_eq_some_iff.1 service
    obtain ⟨x, hx, rfl⟩ := Option.map_eq_some_iff.1 on
    cases origin : x.record.origin with
    | request tag' =>
      rw [origin] at same
      cases same
      obtain ⟨r, hr, tagEq, station⟩ := served x hx (by rw [origin]; rfl)
      rw [origin] at tagEq
      cases tagEq
      exact ⟨r, hr, rfl, station.symm⟩
    | poll d | recoveryPoll d | probe d | fallback => rw [origin] at same; cases same

/-- `Live` looks at the stations' states, the live set, the Report Unit, the call on the line and the reset pins. -/
theorem Live.congr (h : Live s) (stations : t.stations = s.stations) (requests : t.requests = s.requests)
    (service : t.engine.service? = s.engine.service?) (reports : t.reports = s.reports) (held : t.held = s.held) :
    Live t where
  running := held.trans h.running
  queues := by rw [service]; exact h.queues.congr requests reports
  waits := fun r hr => by
    simp only [State.station_of_stations stations]
    exact h.waits r (by rwa [requests] at hr)

theorem Live.withEngine (h : Live s) {f : LineEngine → LineEngine}
    (record : (f s.engine).record? = s.engine.record?) : Live (s.withEngine f) :=
  h.congr rfl rfl (LineEngine.service?_of_record record) rfl rfl

/-- A change of the Report Unit that leaves its RESULT reports. -/
theorem Live.withReports (h : Live s) {f : ReportUnit → ReportUnit} (fits : (f s.reports).fits)
    (results : (f s.reports).queue.filterMap ReportEntry.resultTag? =
      s.reports.queue.filterMap ReportEntry.resultTag?) : Live (s.withReports f) :=
  ⟨h.running, h.queues.withReports rfl fits results, h.waits⟩

theorem Live.putReport (h : Live s) {r : Report} (merges : r.merges = true) : Live (s.putReport r) :=
  ⟨h.running, h.queues.putReport merges, h.waits⟩

/-- A change of one entry that lets the requests waiting for it wait on. -/
theorem Live.setStation (h : Live s) {a : Addr} {e : Station}
    (serves : (s.station a).state.serves = true → e.state.serves = true) : Live (s.setStation a e) where
  running := h.running
  queues := h.queues.setStation a e
  waits := fun r hr waiting b hb => by
    rw [State.station_setStation]
    split
    · next same => subst same; exact serves (h.waits r hr waiting b hb)
    · exact h.waits r hr waiting b hb

/-- R38, R64, R67: a selection puts a request on the line, or a call no request waits for. -/
theorem Live.select (h : Live s) : Live s.select := by
  rcases s.select_cases with same | ⟨c, may, -, mem, committed⟩
  · rw [same]; exact h
  · have queues := h.queues
    rw [LineEngine.service?_of_idle (s.maySelect_iff.1 may).1] at queues
    rw [committed]
    cases c with
    | request r =>
      obtain ⟨live, waiting⟩ := State.request_mem_candidates mem
      have service : (s.commit (.request r)).engine.service? = some (r.tag, r.station) := by
        simp [State.commit, LineEngine.service?, State.requestRecord]
      refine ⟨h.running, ?_, fun q hq waits => ?_⟩
      · rw [service]
        exact queues.serve live waiting rfl rfl
      · obtain ⟨p, hp, rfl⟩ := List.mem_map.1 hq
        dsimp only at waits ⊢
        split at waits
        · cases waits
        · next other => rw [if_neg other]; exact h.waits p hp waits
    | due call a d =>
      have service : (s.commit (.due call a d)).engine.service? = none := by
        cases call <;> simp [State.commit, LineEngine.service?, State.dueRecord]
      have taken : Live (s.setStation a { s.station a with nextDue := none }) := h.setStation id
      exact ⟨h.running, by rw [service]; exact queues.congr rfl rfl, taken.waits⟩

theorem Live.selectIf (h : Live s) (created : Bool) : Live (s.selectIf created) := by
  unfold State.selectIf
  split
  · exact h.select
  · exact h

/-! ### Roles and the fallback (R117, R127, R190 to R192) -/

theorem Live.leaveMaster (h : Live s) (role : LineRole) (phase : FallbackPhase) : Live (s.leaveMaster role phase) :=
  h.congr (by simp) (by simp) rfl (by simp) (by simp)

theorem Live.endFallback (h : Live s) (detail : LineDetail) : Live (s.endFallback detail) :=
  (h.leaveMaster .off .none).putReport rfl

theorem Live.advanceFallback (h : Live s) (idle : s.engine.exchange = none) : Live s.advanceFallback := by
  unfold State.advanceFallback
  cases s.fallback.payload with
  | none => exact h.endFallback _
  | some payload =>
    refine h.congr rfl rfl ?_ rfl rfl
    rw [LineEngine.service?_of_idle idle]
    simp [LineEngine.service?, fallbackRecord]

theorem Live.becomeMaster (h : Live s) : Live s.becomeMaster :=
  (h.congr (t := (s.withEngine fun e => { e with role := .master }).restartSilence) (by simp) (by simp)
    (by simp; rfl) (by simp) (by simp)).select

theorem Live.contentionRole (h : Live s) (detail : CollisionDetail) : Live (s.contentionRole detail) := by
  unfold State.contentionRole
  cases s.engine.role with
  | master | stopping => exact (h.leaveMaster _ _).putReport rfl
  | off | yielded => exact h

/-! ### Ends of an exchange (R106 to R109, R124) -/

/-- R106, R107: the completion of an exchange. -/
theorem Live.completeExchange (h : Live s) (ongoing : Ongoing s) {x : Exchange} (on : s.engine.exchange = some x)
    {outcome : ExOutcome} {data : List Byte} (collision : ∀ detail, outcome ≠ .collision detail)
    (imaged : x.record.kind = .poll → outcome = .good → ∀ n ∈ x.record.imageLength, data.length = n) :
    Live (s.completeExchange outcome data) := by
  have eq : s.completeExchange outcome data = State.afterCompletion x.record
      ((s.withEngine fun g => { g with
        exchange := none, lde := false, counters := g.counters.completed outcome }).dispatch
          ⟨x.record, outcome, data⟩) := by
    simp only [State.completeExchange, on]
  rw [eq]
  obtain ⟨scheduled, -⟩ := ongoing.dispatch on
    (f := fun g => { g with exchange := none, lde := false, counters := g.counters.completed outcome })
    rfl (d := ⟨x.record, outcome, data⟩) rfl collision imaged
  have queues := h.queues.dispatch on
    (fun g => { g with exchange := none, lde := false, counters := g.counters.completed outcome })
    (d := ⟨x.record, outcome, data⟩) rfl collision
  have idle : ((s.withEngine fun g => { g with
      exchange := none, lde := false, counters := g.counters.completed outcome }).dispatch
        ⟨x.record, outcome, data⟩).engine.exchange = none := by simp
  have held : ((s.withEngine fun g => { g with
      exchange := none, lde := false, counters := g.counters.completed outcome }).dispatch
        ⟨x.record, outcome, data⟩).held = false := by simpa using h.running
  generalize (s.withEngine fun g => { g with
      exchange := none, lde := false, counters := g.counters.completed outcome }).dispatch
        ⟨x.record, outcome, data⟩ = u at scheduled queues idle held
  have live : Live u := ⟨held, by rwa [LineEngine.service?_of_idle idle], scheduled.waits⟩
  unfold State.afterCompletion
  cases u.engine.role with
  | master =>
    dsimp only
    split
    · exact live.endFallback _
    · split
      · exact live.advanceFallback idle
      · exact live.select
  | stopping =>
    dsimp only
    split
    · exact live.endFallback _
    · exact (live.leaveMaster _ _).putReport rfl
  | off | yielded => exact live

/-- R39, R44: the Call Queue's part of an undone commitment; no request of an orphan comes to wait. -/
theorem State.undoRequest_requests {r : Request} (found : s.findRequest r.tag = some r) (orphaned : Bool)
    (collision : Option ExOutcome) :
    ∃ g : Request → Request, (s.undoRequest r.tag orphaned collision).requests =
        s.requests.map (Request.changed r.tag g) ∧
      ∀ q, (g q).station = q.station ∧ ((g q).state = .waiting → orphaned = false) := by
  have final : ∀ result, ∃ g : Request → Request, (s.undoneWith r collision result).requests =
        s.requests.map (Request.changed r.tag g) ∧
      ∀ q, (g q).station = q.station ∧ ((g q).state = .waiting → orphaned = false) := fun result =>
    ⟨fun q => { q with lastOutcome := collision.or q.lastOutcome, state := .reported }, rfl,
      fun q => ⟨rfl, fun waiting => by cases waiting⟩⟩
  cases orphaned with
  | true =>
    rw [State.undoRequest_final found collision (.inl ⟨rfl, rfl⟩)]
    exact final _
  | false =>
    cases passed : r.deadlinePassed s.clock with
    | true =>
      rw [State.undoRequest_final found collision (.inr ⟨rfl, passed, rfl⟩)]
      exact final _
    | false =>
      rw [State.undoRequest_waiting found collision passed]
      exact ⟨_, rfl, fun q => ⟨rfl, fun _ => rfl⟩⟩

/-- R69: an undone commitment changes no station's state. -/
theorem State.undoCommitment_state (record : ExchangeRecord) (collision : Option ExOutcome) (s : State) (b : Addr) :
    ((s.undoCommitment record collision).station b).state = (s.station b).state := by
  rw [State.undoCommitment_station]
  split
  · obtain ⟨due, shape⟩ := (s.station b).restoreAnchor_shape record.origin
    rw [shape]
  · rfl

/-- R36 (log 24): after the cascade of an undone request none waits for the station, if it is LOST and the request not
an orphan. -/
theorem State.mem_cascadeUndone {record : ExchangeRecord} {q : Request} {b : Addr}
    (nodup : (s.requests.map fun r => r.tag).Nodup) (mem : q ∈ (s.cascadeUndone record).requests)
    (waiting : q.state = .waiting) (station : q.station = some b) :
    q ∈ s.requests ∧ (record.station = some b → record.orphaned = false → (s.station b).state ≠ .lost) := by
  unfold State.cascadeUndone at mem
  split at mem
  · next silent => exact ⟨mem, fun named => by rw [silent] at named; cases named⟩
  · next a named =>
    split at mem
    · rw [State.removeWaiting_eq nodup] at mem
      obtain ⟨p, hp, rfl⟩ := List.mem_map.1 mem
      obtain ⟨-, same, was⟩ := p.removedFor_kind a
      obtain ⟨waited, elsewhere⟩ := was waiting
      have untouched : p.removedFor a = p := if_neg fun both => elsewhere both.2
      rw [show (if p.state = .waiting ∧ p.station = some a then { p with state := .reported } else p) = p from
        untouched] at station ⊢
      exact ⟨hp, fun here => absurd (station.trans (here.symm.trans named)) elsewhere⟩
    · next calm =>
      refine ⟨mem, fun here orphaned lost => calm ?_⟩
      have same : b = a := Option.some.inj (here.symm.trans named)
      subst same
      simp [orphaned, lost]

/-- R36, R39 (log 24): an undone request waits again only for a station that serves. -/
theorem Live.undoCommitment (h : Live s) (ongoing : Ongoing s) {x : Exchange} (on : s.engine.exchange = some x)
    (collision : Option ExOutcome) : Live (s.undoCommitment x.record collision) := by
  have idle : (s.undoCommitment x.record collision).engine.exchange = none := by simp
  refine ⟨by simpa using h.running, ?_, ?_⟩
  · rw [LineEngine.service?_of_idle idle]
    exact h.queues.undoCommitment on collision
  · simp only [State.undoCommitment_state]
    intro q hq waiting b hb
    unfold State.undoCommitment at hq
    cases origin : x.record.origin with
    | poll d | recoveryPoll d | probe d =>
      refine h.waits q ?_ waiting b hb
      simpa [origin] using hq
    | fallback =>
      refine h.waits q ?_ waiting b hb
      simpa [origin] using hq
    | request tag =>
      have queues := h.queues
      rw [LineEngine.service?_of_request on origin] at queues
      obtain ⟨r, found, mem, rfl, station, -⟩ := queues.on_line
      have queued : Queues (some (r.tag, x.record.station))
          (s.withEngine fun e => { e with exchange := none }) := queues.congr rfl rfl
      simp only [origin] at hq
      obtain ⟨hq, calm⟩ := State.mem_cascadeUndone (queued.undoRequest _ _).nodup hq waiting hb
      obtain ⟨g, requests, keeps⟩ := State.undoRequest_requests
        (s := s.withEngine fun e => { e with exchange := none }) found x.record.orphaned collision
      rw [requests] at hq
      obtain ⟨p, hp, rfl⟩ := List.mem_map.1 hq
      unfold Request.changed at waiting hb
      split at waiting
      · next own =>
        rw [if_pos own] at hb
        have same := h.queues.eq_of_tag hp mem own
        subst same
        have live := (keeps p).2 waiting
        have named : x.record.station = some b := station.symm.trans ((keeps p).1.symm.trans hb)
        obtain ⟨-, serves | lost⟩ := Origin.fitsState_request (by rw [origin]; rfl)
          (ongoing.timed.fitsState on named live)
        · exact serves
        · exact absurd (by simpa using lost) (calm named live)
      · next other =>
        rw [if_neg other] at hb
        exact h.waits p hp waiting b hb

/-- R108, R124, R125, R191: a collision. -/
theorem Live.collide (h : Live s) (ongoing : Ongoing s) {x : Exchange} (on : s.engine.exchange = some x)
    (detail : CollisionDetail) : Live (s.collide detail) := by
  have dropped : Ongoing (s.withEngine LineEngine.dropLine) :=
    ongoing.withEngine (by simp) (by simp) (LineEngine.dropLine_framer ongoing.framer)
  have live : Live (s.withEngine LineEngine.dropLine) := h.withEngine (by simp [LineEngine.record?])
  have undone := live.undoCommitment dropped (x := x) (by simpa using on) (some (.collision detail))
  have counted : Live
      ((s.withEngine LineEngine.dropLine).undoCommitment x.record (some (.collision detail))).countContention :=
    undone.congr rfl rfl rfl rfl rfl
  unfold State.collide
  rw [on]
  dsimp only
  split
  · exact counted.endFallback _
  · exact counted.contentionRole _

end Live

end Sys2Proof.Machine
end

section
/-!
SUPPORT. What a command for the Call Queue asks for, and what every command does to the live set and the report queue.
-/

namespace Sys2Proof.Machine

/-! ### Ranges of PUT, GET and BROADCAST (R32 to R35, R175) -/

/-- R32, R33, R175: the ranges of a PUT or GET, and what it then asks for. -/
theorem rangeStationRequest_eq_some {kind : RequestKind} {raw : RawRequest} {p : RequestParams} :
    rangeStationRequest kind raw = some p ↔
      ∃ a : Addr, raw.station.toNat = a.val + 1 ∧ (1 ≤ raw.urgency.toNat ∧ raw.urgency.toNat ≤ 7) ∧
        raw.allowance.toNat ≤ 7 ∧ (1 ≤ raw.payload.length ∧ raw.payload.length ≤ 32) ∧
        p = ⟨raw.tag, kind, some a, raw.urgency.toNat, raw.allowance.toNat, deadlineOf raw.deadline, raw.payload⟩ := by
  simp only [rangeStationRequest, Option.bind_eq_bind, Option.bind_eq_some_iff, Option.some.injEq, inRange_some,
    addrOfByte?_eq_some]
  constructor
  · rintro ⟨a, ha, _, ⟨rfl, urgency⟩, _, ⟨rfl, -, allowance⟩, _, ⟨rfl, payload⟩, rfl⟩
    exact ⟨a, ha, urgency, allowance, payload, rfl⟩
  · rintro ⟨a, ha, urgency, allowance, payload, rfl⟩
    exact ⟨a, ha, _, ⟨rfl, urgency⟩, _, ⟨rfl, Nat.zero_le _, allowance⟩, _, ⟨rfl, payload⟩, rfl⟩

/-- R34, R175: the ranges of a BROADCAST, and what it then asks for. -/
theorem rangeBroadcast_eq_some {raw : RawRequest} {p : RequestParams} :
    rangeBroadcast raw = some p ↔
      (1 ≤ raw.urgency.toNat ∧ raw.urgency.toNat ≤ 7) ∧ (1 ≤ raw.payload.length ∧ raw.payload.length ≤ 32) ∧
        p = ⟨raw.tag, .broadcast, none, raw.urgency.toNat, 0, deadlineOf raw.deadline, raw.payload⟩ := by
  simp only [rangeBroadcast, Option.bind_eq_bind, Option.bind_eq_some_iff, Option.some.injEq, inRange_some]
  constructor
  · rintro ⟨_, ⟨rfl, urgency⟩, _, ⟨rfl, payload⟩, rfl⟩
    exact ⟨urgency, payload, rfl⟩
  · rintro ⟨urgency, payload, rfl⟩
    exact ⟨_, ⟨rfl, urgency⟩, _, ⟨rfl, payload⟩, rfl⟩

/-- R29: the record of a PUT or GET in range. -/
theorem newRequest_fits_of_station {kind : RequestKind} {raw : RawRequest} {p : RequestParams}
    (h : rangeStationRequest kind raw = some p) (addressed : kind ≠ .broadcast) (now : Clock) :
    (newRequest now p).fits := by
  obtain ⟨a, -, urgency, allowance, payload, rfl⟩ := rangeStationRequest_eq_some.1 h
  exact ⟨urgency.1, urgency.2, allowance, Nat.zero_le _, by simp [newRequest, addressed], payload⟩

/-- R29, R34: the record of a BROADCAST in range. -/
theorem newRequest_fits_of_broadcast {raw : RawRequest} {p : RequestParams} (h : rangeBroadcast raw = some p)
    (now : Clock) : (newRequest now p).fits := by
  obtain ⟨urgency, payload, rfl⟩ := rangeBroadcast_eq_some.1 h
  exact ⟨urgency.1, urgency.2, Nat.zero_le _, Nat.zero_le _, by simp [newRequest], payload⟩

/-! ### Commands for stations and requests (R4 to R13, R32 to R35, R46) -/

section Live

variable {s t : State}

theorem Live.enrolStation (h : Live s) (p : EnrolParams) : Live (s.enrolStation p).state := by
  have fresh : (s.station p.address).state.serves = false →
      Live (s.setStation p.address (Station.enrolled s.clock p)).select := fun none =>
    (h.setStation fun serves => by rw [none] at serves; cases serves).select
  unfold State.enrolStation
  cases state : (s.station p.address).state with
  | vacant | parked => exact fresh (by rw [state]; rfl)
  | probing | online | suspect | lost => exact h

theorem Queues.modifyStation {service : Option (Half × Dest)} (h : Queues service s) (p : ModifyParams) :
    Queues service (s.modifyStation p) := by
  have modified : Queues service (s.withStation p.address
      (Station.modified s.clock (s.engine.pollInProgress p.address) p)) := h.setStation _ _
  unfold State.modifyStation State.setMissLimit
  cases p.missLimit with
  | none => exact modified
  | some l =>
    dsimp only
    split
    · split
      · exact (modified.setStation _ _).enterLost _ _
      · exact modified.setStation _ _
    all_goals exact modified.setStation _ _

theorem Live.modifyEntry (h : Live s) (run : Running s) {p : ModifyParams}
    (range : p.fits (s.station p.address).imageLength) : Live (s.modifyEntry p).state := by
  have modified : (s.station p.address).state ≠ .vacant → Live (s.modifyStation p) := fun enrolled =>
    ⟨by simpa using h.running, by simpa using h.queues.modifyStation p, (run.modifyStation enrolled range).waits⟩
  unfold State.modifyEntry
  cases state : (s.station p.address).state with
  | vacant => exact h
  | probing | online | suspect | lost | parked => exact (modified (by simp [state])).selectIf _

@[simp] theorem LineEngine.orphan_service? (a : Addr) (g : LineEngine) : (g.orphan a).service? = g.service? := by
  unfold LineEngine.service? LineEngine.record? LineEngine.orphan
  cases g.exchange with
  | none => rfl
  | some x =>
    dsimp only [Option.map_some, Option.bind_some]
    by_cases named : x.record.station = some a
    · rw [if_pos named]
    · rw [if_neg named]

/-- R12, R13, R48, R110: a station taken off the line. -/
theorem Live.takeOff (h : Live s) (a : Addr) (e : Station) (result : RequestResult) :
    Live (((s.setStation a e).removeWaiting a result).withEngine (LineEngine.orphan a)) where
  running := by simpa using h.running
  queues := by
    rw [State.withEngine_engine, LineEngine.orphan_service?, State.removeWaiting_engine, State.setStation_engine]
    exact Queues.congr ((h.queues.setStation a e).removeWaiting a result) rfl rfl
  waits := fun r hr waiting b hb => by
    rw [State.withEngine_requests, State.removeWaiting_eq (s := s.setStation a e) h.queues.nodup] at hr
    obtain ⟨q, hq, rfl⟩ := List.mem_map.1 hr
    obtain ⟨-, station, was⟩ := q.removedFor_kind a
    obtain ⟨waited, elsewhere⟩ := was waiting
    replace hb : q.station = some b := station.symm.trans hb
    have other : b ≠ a := by rintro rfl; exact elsewhere hb
    rw [State.withEngine_station, State.removeWaiting_station, State.station_setStation, if_neg other]
    exact h.waits q hq waited b hb

theorem Live.parkStation (h : Live s) (a : Addr) : Live (s.parkStation a).state := by
  unfold State.parkStation
  cases (s.station a).state with
  | vacant | parked => exact h
  | probing | online | suspect | lost => exact h.takeOff a _ _

theorem Live.releaseStation (h : Live s) (a : Addr) : Live (s.releaseStation a).state := by
  unfold State.releaseStation
  cases (s.station a).state with
  | vacant => exact h
  | probing | online | suspect | lost | parked => exact h.takeOff a _ _

theorem Live.acceptRequest (h : Live s) {p : RequestParams} (fits : (newRequest s.clock p).fits) :
    Live (s.acceptRequest p).state := by
  unfold State.acceptRequest
  split
  · exact h
  next fresh =>
    split
    · exact h
    next room =>
      split
      · exact h
      next serves =>
        have serves : s.serves p.station = true := by simpa using serves
        have fresh : s.findRequest p.tag = none := by simpa using fresh
        have queued : Live (s.withRequests fun rs => rs ++ [newRequest s.clock p]) := by
          refine ⟨h.running, h.queues.accept (r := newRequest s.clock p) (Nat.not_le.1 room)
            (State.findRequest_none.1 fresh) fits rfl rfl rfl, fun r hr waiting a ha => ?_⟩
          rcases List.mem_append.1 hr with hr | hr
          · exact h.waits r hr waiting a ha
          · rw [List.mem_singleton.1 hr] at ha
            have station : p.station = some a := ha
            rw [station, State.serves_some] at serves
            exact serves
        exact queued.selectIf _

/-- R36, R45, R46: a WAITING request removed, and the selection its removal can cause. -/
theorem Live.completeRequest (h : Live s) (run : Running s) {tag : Half}
    (waiting : ∀ r, s.findRequest tag = some r → r.state = .waiting) (result : RequestResult) :
    Live (s.completeRequest tag result []) :=
  ⟨by simpa using h.running, by simpa using h.queues.completeRequest waiting result [],
    (run.toScheduled.completeRequest tag result []).waits⟩

theorem Live.cancelRequest (h : Live s) (run : Running s) (tag : Half) : Live (s.cancelRequest tag).state := by
  unfold State.cancelRequest
  split
  · exact h
  · next r found =>
    split
    · next state =>
      refine (h.completeRequest run (fun q hq => ?_) .cancelled).selectIf _
      rw [found] at hq
      cases hq
      exact state
    · exact h
    · exact h

/-! ### Line commands and FALLBACK_SET (R116 to R121, R188) -/

theorem Live.restartSilence (h : Live s) : Live s.restartSilence :=
  h.congr (by simp) (by simp) (by simp) (by simp) (by simp)

theorem Live.stopMaster (h : Live s) (run : Running s) : Live s.stopMaster := by
  unfold State.stopMaster
  cases on : s.engine.exchange with
  | none => exact h.leaveMaster _ _
  | some x =>
    dsimp only
    cases x.phase with
    | gap => exact (h.undoCommitment run.toOngoing on none).leaveMaster _ _
    | sending _ _ _ | await _ _ | receiving | settle => exact h.leaveMaster _ _

theorem Live.setFallback (h : Live s) (p : FallbackParams) : Live (s.setFallback p) := by
  have set : Live (s.withFallback fun f => { f with limit := p.limit, payload := p.payload }) :=
    h.congr rfl rfl rfl rfl rfl
  unfold State.setFallback
  dsimp only
  split
  · exact set.restartSilence
  · exact set.congr rfl rfl rfl rfl rfl

theorem Live.setParams (h : Live s) (p : LineParams) : Live (s.withEngine (LineEngine.setParams p)) := by
  refine h.withEngine ?_
  unfold LineEngine.setParams
  split <;> rfl

/-! ### Every command (R172) -/

theorem Live.perform (h : Live s) (run : Running s) (name : CommandName) (params : List Byte) :
    Live (s.perform name params).state := by
  cases name with
  | identify => exact bare_state h h
  | status =>
    refine checked_state h fun raw clear _ => ?_
    cases clear with
    | false => exact h
    | true =>
      have cleared : Live (s.withReports fun u => { u with unknownAcks := 0, retransmissions := 0 }) :=
        h.withReports h.queues.reports rfl
      exact cleared.congr rfl rfl rfl rfl rfl
  | restart => exact bare_state h (h.congr rfl rfl rfl rfl rfl)
  | linkSetup =>
    refine checked_state h fun raw p _ => ?_
    have set : Live (s.withReports fun u => { u with ackTimeout := p.ackTimeout }) :=
      h.withReports h.queues.reports rfl
    exact set.congr rfl rfl rfl rfl rfl
  | fallbackSet => exact checked_state h fun raw p _ => h.setFallback p
  | lineSetup =>
    refine checked_state h fun raw p _ => ?_
    cases s.engine.role with
    | off => exact h.setParams p
    | master | stopping | yielded => exact h
  | lineStart =>
    refine bare_state h ?_
    cases s.engine.role with
    | off => exact h.becomeMaster
    | master | stopping | yielded => exact h
  | lineStop =>
    refine bare_state h ?_
    cases s.engine.role with
    | master => exact h.stopMaster run
    | yielded => exact h.leaveMaster _ _
    | off | stopping => exact h
  | lineResume =>
    refine bare_state h ?_
    cases s.engine.role with
    | yielded =>
      dsimp only
      split
      · exact h.becomeMaster
      · exact h
    | off | master | stopping => exact h
  | enrol => exact checked_state h fun raw p _ => h.enrolStation p
  | modify => exact checked_state h fun raw p range => h.modifyEntry run (rangeModify_fits range)
  | park => exact checked_state h fun raw a _ => h.parkStation a
  | release => exact checked_state h fun raw a _ => h.releaseStation a
  | stationQuery => exact checked_state h fun raw a _ => h
  | roster => exact bare_state h h
  | put =>
    exact checked_state h fun raw p range => h.acceptRequest (newRequest_fits_of_station range (by decide) _)
  | get =>
    exact checked_state h fun raw p range => h.acceptRequest (newRequest_fits_of_station range (by decide) _)
  | broadcast => exact checked_state h fun raw p range => h.acceptRequest (newRequest_fits_of_broadcast range _)
  | cancel => exact checked_state h fun raw tag _ => h.cancelRequest run tag
  | queueQuery => exact bare_state h h

theorem Live.respond (h : Live s) (r : Response) : Live (s.respond r) := h.congr rfl rfl rfl rfl rfl

theorem Live.carryOut (h : Live s) (run : Running s) (f : CommandFrame) : Live (s.carryOut f) := by
  have answered : Live (s.answer f.body).state := by
    unfold State.answer
    split
    · exact h
    · split
      · exact h
      · exact h.perform run _ _
  exact answered.respond _

theorem Live.takeFrame (h : Live s) (run : Running s) (f : CommandFrame) : Live (s.takeFrame f) := by
  unfold State.takeFrame
  split
  · exact h.carryOut run f
  · split
    · exact h.congr rfl rfl rfl rfl rfl
    · exact h.carryOut run f

theorem Live.takeReady (h : Live s) (run : Running s) : Live s.takeReady := by
  unfold State.takeReady
  split
  · exact Live.takeFrame (s := s.withHost fun g => { g with readySlot := none }) (h.congr rfl rfl rfl rfl rfl)
      (run.congr rfl rfl rfl rfl rfl) _
  · exact h
  · exact h

/-- R149, R158: the notice of a good CRC. -/
theorem Live.goodFrame (h : Live s) : Live s.goodFrame := by
  have reports : s.goodFrame.reports = s.reports.stallEnded s.clock := by rw [State.goodFrame_eq]
  refine ⟨by simpa using h.running, ?_, by simpa using h.waits⟩
  rw [State.goodFrame_engine]
  refine h.queues.withReports (by simp) ?_ ?_
  · rw [reports]; exact h.queues.reports.stallEnded _
  · rw [State.resultTags, reports, ReportUnit.stallEnded_queue]; rfl

theorem Live.offer (h : Live s) (run : Running s) (f : CommandFrame) : Live (s.offer f) := by
  have placed : Live (s.placeReady f) := h.congr (by simp) (by simp) (by simp) (by simp) (by simp)
  have placedRun : Running (s.placeReady f) := run.congr (by simp) (by simp) (by simp) (by simp) (by simp)
  exact placed.goodFrame.takeReady placedRun.goodFrame

theorem Live.receiveCommand (h : Live s) (run : Running s) (f : CommandFrame) : Live (s.receiveCommand f) := by
  unfold State.receiveCommand
  split
  · exact h.offer run f
  · exact h

/-- R51, R145, R158: an acknowledgement. -/
theorem Live.ackFrame (h : Live s) (q : Byte) : Live (s.applyAck q).goodFrame := by
  have requests : ∀ r ∈ (s.applyAck q).goodFrame.requests, r ∈ s.requests := by
    rw [State.goodFrame_requests]
    unfold State.applyAck
    split
    · exact fun r hr => hr
    · exact fun r hr => (List.mem_filter.1 hr).1
  refine ⟨by simpa using h.running, ?_, fun r hr => ?_⟩
  · rw [State.goodFrame_engine, State.applyAck_engine]
    exact h.queues.applyAck q
  · simpa using h.waits r (requests r hr)

/-! ### Reset (R182, R185) -/

theorem ReportUnit.reset_fits (cause : ResetCause) : (ReportUnit.reset cause).fits :=
  ReportUnit.fits_iff.2 ⟨[], [⟨.ready cause Config.partRevision, .unsent⟩],
    ⟨rfl, by simp, by simp [SendState.isSent], rfl, by simp, rfl, by simp, by simp [ReportUnit.reset, Report.isReady]⟩,
    by simp [ReportUnit.reset], by simp [ReportUnit.reset], by simp [ReportUnit.reset], by simp [ReportUnit.reset]⟩

theorem afterReset_live (cause : ResetCause) (hrxLow : Bool) (waiting : List Instr) :
    Live (State.afterReset cause hrxLow waiting) where
  running := rfl
  queues :=
    { count := Nat.zero_le _
      nodup := List.nodup_nil
      fits := by simp [State.afterReset]
      onLine := by simp [State.afterReset]
      served := fun tag d some => by cases some
      results := .refl _
      reports := ReportUnit.reset_fits cause }
  waits := by simp [State.afterReset]

/-- R186: entry into reset leaves nothing in the live set or the report queue. -/
theorem agreed_of_abandoned (reports : s.reports.fits) (requests : t.requests = [])
    (exchange : t.engine.exchange = none)
    (abandoned : t.reports = { s.reports with queue := [], attn := false, ackTimer := none, resendPoint := none }) :
    Agreed t := by
  obtain ⟨front, back, order, pace⟩ := ReportUnit.fits_iff.1 reports
  refine ⟨⟨by simp [requests], by simp [requests], by simp [requests], by simp [requests], by simp [exchange],
    by simp [exchange], by simp [requests], ?_⟩, ?_⟩
  · rw [State.resultTags, State.reportedTags, requests, abandoned]
    exact .refl _
  · rw [ReportsOk, abandoned]
    exact ReportUnit.fits_iff.2 ⟨[], [], ⟨rfl, by simp, by simp, rfl, by simp, rfl, by simp, by simp⟩,
      pace.rounds, pace.stalled, by simp, by simp⟩

theorem Live.responseGone (h : Live s) (run : Running s) : Live s.responseGone := by
  unfold State.responseGone
  split
  · exact afterReset_live _ _ _
  · exact Live.takeReady (s := s.withUnit fun u => { u with responseSlot := none }) (h.congr rfl rfl rfl rfl rfl)
      (run.congr rfl rfl rfl rfl rfl)

end Live

end Sys2Proof.Machine
end

section
/-!
SUPPORT. Every step keeps the live set and the report queue in agreement.
-/

namespace Sys2Proof.Machine

section Live

variable {s : State}

/-! ### Rows of the field line (R92 to R105) -/

/-- A change of what an exchange measures, or of its exchange state. -/
theorem Live.mapPhase (h : Live s) {f : LineEngine → LineEngine} {phase : Phase → Phase}
    (exchange : (f s.engine).exchange = s.engine.exchange.map fun x => { x with phase := phase x.phase }) :
    Live (s.withEngine f) := by
  refine h.withEngine ?_
  rw [LineEngine.record?, exchange, Option.map_map]
  rfl

theorem Live.setPhase (h : Live s) (phase : Phase) : Live (s.setPhase phase) := h.mapPhase (phase := fun _ => phase) rfl

theorem Live.hear (h : Live s) (stop : StopBit) : Live (s.hear stop) := h.withEngine rfl

theorem Live.setFramer (h : Live s) (f : Framer) : Live (s.setFramer f) := h.withEngine rfl

theorem Live.tryStart (h : Live s) : Live (s.withEngine LineEngine.tryStart) := by
  refine h.withEngine ?_
  unfold LineEngine.tryStart
  split
  · rfl
  · next x on =>
    split
    · split
      · simp [LineEngine.record?, on]
      · rfl
    all_goals rfl

theorem Live.callSent (h : Live s) (kind : CallKind) : Live (s.callSent kind) :=
  Live.setPhase (h.withEngine (f := fun g => { g with
    lde := false, framer := .ready, counters := { g.counters with callsSent := satInc g.counters.callsSent } }) rfl) _

/-- R56: the saturated mark on the anchor of the exchange in progress. -/
theorem Live.saturateAnchor (h : Live s) :
    Live (s.withEngine fun g => { g with exchange := g.exchange.map fun x =>
      { x with record := { x.record with origin := x.record.origin.saturate s.clock } } }) := by
  refine h.congr rfl rfl ?_ rfl rfl
  simp only [State.withEngine_engine, LineEngine.service?, LineEngine.record?, Option.map_map]
  cases s.engine.exchange with
  | none => rfl
  | some x =>
    cases origin : x.record.origin with
    | poll d | recoveryPoll d | probe d =>
      simp only [Option.map_some, Option.bind_some, Function.comp, origin, Origin.saturate]
      cases d.latenessFull s.clock <;> rfl
    | request tag | fallback =>
      simp only [Option.map_some, Option.bind_some, Function.comp, origin, Origin.saturate]

/-- R96 to R98: an echo, of the last character of the call, of another one, or a wrong one. -/
theorem Live.echo (h : Live s) (run : Running s) {record : ExchangeRecord} {elapsed ended paired : Nat}
    (on : s.engine.exchange = some ⟨record, .sending elapsed ended paired⟩) (ch : RxChar) :
    Live (if echoGood s.engine.params.rate record.call elapsed ended paired ch then
        (if paired + 1 = record.call.length then (s.hear ch.stop).callSent record.kind
          else (s.hear ch.stop).setPhase (.sending elapsed ended (paired + 1)))
      else (s.hear ch.stop).collide .echo) := by
  have heard := h.hear ch.stop
  split
  · split
    · exact heard.callSent _
    · exact heard.setPhase _
  · exact heard.collide (run.toOngoing.hear ch.stop) on _

/-- R82: what the start of a telegram means to the Line Engine. -/
theorem Live.judgeStart (h : Live s) (ongoing : Ongoing s) (ch : RxChar) : Live (s.judgeStart ch) := by
  unfold State.judgeStart
  cases on : s.engine.exchange with
  | none =>
    dsimp only
    split
    · exact Live.contentionRole (s := s.countContention) (h.congr rfl rfl rfl rfl rfl) _
    · exact h
  | some x =>
    dsimp only
    cases x.phase with
    | gap =>
      dsimp only
      split
      · exact h.collide ongoing on _
      · exact h
    | await since seen =>
      dsimp only
      split
      · exact h.completeExchange ongoing on (by simp) (by simp)
      · split
        · exact h.setPhase _
        · exact h.collide ongoing on _
    | settle => exact h.collide ongoing on _
    | sending _ _ _ | receiving => exact h

theorem Live.replyFault (h : Live s) (ongoing : Ongoing s) (detail : GarbledDetail) : Live (s.replyFault detail) := by
  unfold State.replyFault
  split
  · next on => exact h.completeExchange ongoing on (by simp) (by simp)
  · exact h

theorem Live.replyComplete (h : Live s) (ongoing : Ongoing s) (chars : List Byte) : Live (s.replyComplete chars) := by
  unfold State.replyComplete
  split
  · next record on =>
    refine h.completeExchange ongoing on (record.classify_ne_collision chars) fun kind good n length => ?_
    rw [if_pos good]
    have same := ExchangeRecord.classify_good_poll kind good
    rw [show record.imageLength = some n from length] at same
    exact (Option.some.inj same).symm
  · exact h

/-- R190: the silence timer runs out. -/
theorem Live.silenceExpired (h : Live s) :
    Live (if s.engine.exchange.isSome then
        (s.withFallback fun f => { f with timer := none, pending := true }).withFallback
          fun f => { f with phase := .awaitingExchange }
      else (s.withFallback fun f => { f with timer := none, pending := true }).advanceFallback) := by
  have pending : Live (s.withFallback fun f => { f with timer := none, pending := true }) :=
    h.congr rfl rfl rfl rfl rfl
  split
  · exact pending.congr rfl rfl rfl rfl rfl
  · next idle => exact pending.advanceFallback (by simpa using idle)

/-! ### Rows of the report queue (R143, R147, R148) -/

theorem Live.reportFrameBegin (h : Live s) {q : Byte} {body : List Byte} {u : ReportUnit}
    (begun : s.reports.beginFrame s.clock = some (q, body, u)) (f : HostLink → HostLink) :
    Live (({ s with reports := u } : State).withHost f) := by
  obtain ⟨fits, results⟩ := h.queues.reports.beginFrame begun
  have sent : Live (s.withReports fun _ => u) := h.withReports fits results
  exact sent.congr rfl rfl rfl rfl rfl

theorem Live.ackExpired (h : Live s) {timer : AckTimer} (running : s.reports.ackTimer = some timer) :
    Live (s.withReports (ReportUnit.ackExpired s.clock)) := by
  refine h.withReports (h.queues.reports.ackExpired running _) ?_
  unfold ReportUnit.ackExpired
  split <;> rfl

/-! ### Every row -/

/-- A row is nothing in reset, and outside reset a change of a running device. -/
theorem whenRunning_live (h : DeviceOk s) {f : State → State} (keeps : Running s → Live s → Live (f s)) :
    Live (whenRunning f s) ∨ Agreed (whenRunning f s) := by
  cases held : s.held with
  | true => rw [whenRunning_of_held held]; exact .inr h.agreed
  | false => rw [whenRunning_of_running held]; exact .inl (keeps (h.running held) (h.live held))

theorem hostCommand_live (h : DeviceOk s) (name : CommandName) (seq : Byte) (params : List Byte) :
    Live (hostCommand name seq params s) ∨ Agreed (hostCommand name seq params s) :=
  whenRunning_live h fun run live => live.receiveCommand run _

/-- BREAK (R169, R170): a response stopped counts as delivered. -/
theorem execLineBreak_live (h : DeviceOk s) : ∃ t, execLineBreak s = .next t ∧ (Live t ∨ Agreed t) := by
  refine ⟨_, rfl, ?_⟩
  cases held : s.held with
  | true => exact .inr ⟨h.agreed.callQueue, h.agreed.reports⟩
  | false =>
    have run := h.running held
    have live := h.live held
    have broken : Live (s.withHost HostLink.break) := live.congr rfl rfl rfl rfl rfl
    simp only [Bool.false_eq_true, if_false]
    split
    · split
      · exact .inl (broken.responseGone (run.congr rfl rfl rfl rfl rfl))
      · exact .inl broken
    · exact .inl live

/-- The rows of NRST and of the supply (R183, R184). -/
theorem exec_reset_live (h : DeviceOk s) :
    (∃ t, execNrstAssert s = .next t ∧ (Live t ∨ Agreed t)) ∧
      (∃ t, execNrstRelease s = .next t ∧ (Live t ∨ Agreed t)) ∧
      (∃ t, execPowerUp s = .next t ∧ (Live t ∨ Agreed t)) ∧
      ∃ t, execSupplyFail s = .next t ∧ (Live t ∨ Agreed t) := by
  refine ⟨⟨_, rfl, ?_⟩, ⟨_, rfl, ?_⟩, ⟨_, rfl, ?_⟩, ⟨_, rfl, ?_⟩⟩
  · split
    · exact .inr h.agreed
    · exact .inr (agreed_of_abandoned h.agreed.reports rfl rfl rfl)
  · split
    · split
      · exact .inl (afterReset_live _ _ _)
      · exact .inr ⟨h.agreed.callQueue, h.agreed.reports⟩
    · exact .inr h.agreed
  · split
    · exact .inr h.agreed
    · split
      · exact .inr ⟨h.agreed.callQueue, h.agreed.reports⟩
      · exact .inl (afterReset_live _ _ _)
  · split
    · exact .inr (agreed_of_abandoned h.agreed.reports rfl rfl rfl)
    · exact .inr h.agreed

/-- Every command and event leaves a running device whose live set and report queue agree, or one held in reset. -/
theorem exec_live (h : DeviceOk s) (i : Instr) : ∃ t, exec i s = .next t ∧ (Live t ∨ Agreed t) := by
  obtain ⟨nrstAssert, nrstRelease, powerUp, supplyFail⟩ := exec_reset_live h
  cases i with
  | identify seq params => exact ⟨_, rfl, hostCommand_live h .identify seq params⟩
  | status seq params => exact ⟨_, rfl, hostCommand_live h .status seq params⟩
  | restart seq params => exact ⟨_, rfl, hostCommand_live h .restart seq params⟩
  | linkSetup seq params => exact ⟨_, rfl, hostCommand_live h .linkSetup seq params⟩
  | fallbackSet seq params => exact ⟨_, rfl, hostCommand_live h .fallbackSet seq params⟩
  | lineSetup seq params => exact ⟨_, rfl, hostCommand_live h .lineSetup seq params⟩
  | lineStart seq params => exact ⟨_, rfl, hostCommand_live h .lineStart seq params⟩
  | lineStop seq params => exact ⟨_, rfl, hostCommand_live h .lineStop seq params⟩
  | lineResume seq params => exact ⟨_, rfl, hostCommand_live h .lineResume seq params⟩
  | enrol seq params => exact ⟨_, rfl, hostCommand_live h .enrol seq params⟩
  | modify seq params => exact ⟨_, rfl, hostCommand_live h .modify seq params⟩
  | park seq params => exact ⟨_, rfl, hostCommand_live h .park seq params⟩
  | release seq params => exact ⟨_, rfl, hostCommand_live h .release seq params⟩
  | stationQuery seq params => exact ⟨_, rfl, hostCommand_live h .stationQuery seq params⟩
  | roster seq params => exact ⟨_, rfl, hostCommand_live h .roster seq params⟩
  | put seq params => exact ⟨_, rfl, hostCommand_live h .put seq params⟩
  | get seq params => exact ⟨_, rfl, hostCommand_live h .get seq params⟩
  | broadcast seq params => exact ⟨_, rfl, hostCommand_live h .broadcast seq params⟩
  | cancel seq params => exact ⟨_, rfl, hostCommand_live h .cancel seq params⟩
  | queueQuery seq params => exact ⟨_, rfl, hostCommand_live h .queueQuery seq params⟩
  | cachedResponse seq body | commandCodeUnknown seq body =>
    refine ⟨_, rfl, whenRunning_live h fun run live => ?_⟩
    split
    · exact live.receiveCommand run _
    · exact live
  | strayByte _ | badLength _ | brokenFrame _ | framePauseTimeout | crcError _ | responseFrameBegin | reportFrameEnd
  | leadByte | frameByte _ =>
    refine ⟨_, rfl, whenRunning_live h fun run live => ?_⟩
    repeat' split
    all_goals exact live.congr rfl rfl rfl rfl rfl
  | reportFrameBegin =>
    refine ⟨_, rfl, whenRunning_live h fun run live => ?_⟩
    split
    · next begun => exact live.reportFrameBegin begun _
    · exact live
  | ackTimerExpiry =>
    refine ⟨_, rfl, whenRunning_live h fun run live => ?_⟩
    split
    · exact live
    · next running =>
      split
      · exact live.ackExpired running
      · exact live
  | commandFrame b =>
    refine ⟨_, rfl, whenRunning_live h fun run live => ?_⟩
    repeat' split
    · exact live
    · exact live.offer run _
    · exact live
  | ackFrame b =>
    refine ⟨_, rfl, whenRunning_live h fun run live => ?_⟩
    repeat' split
    · exact live
    · exact live.ackFrame _
    · exact live
  | unknownKindFrame b =>
    refine ⟨_, rfl, whenRunning_live h fun run live => ?_⟩
    repeat' split
    · exact live
    · exact Live.goodFrame (s := s.withHostCounters fun c => { c with strayBytes := satInc c.strayBytes })
        (live.congr rfl rfl rfl rfl rfl)
    · exact live
  | lineBreak => exact execLineBreak_live h
  | responseDelivered =>
    refine ⟨_, rfl, whenRunning_live h fun run live => ?_⟩
    repeat' split
    · exact live
    · exact Live.responseGone (s := s.withHost fun g => HostLink.switchRate { g with tx := none })
        (live.congr rfl rfl rfl rfl rfl) (run.congr rfl rfl rfl rfl rfl)
    · exact live
  | deadlineExpiry tag =>
    refine ⟨_, rfl, whenRunning_live h fun run live => ?_⟩
    split
    · exact live
    · next r found =>
      split
      · next due =>
        refine (live.completeRequest run (fun q hq => ?_) .expired).selectIf _
        rw [found] at hq
        cases hq
        exact due.1
      · exact live
  | dueTimeReached a =>
    refine ⟨_, rfl, whenRunning_live h fun run live => ?_⟩
    split
    · exact live
    · split
      · refine Live.select ?_
        exact live.setStation id
      · exact live
  | latenessSaturated which =>
    refine ⟨_, rfl, whenRunning_live h fun run live => ?_⟩
    split
    · split
      · exact live
      · split
        · exact live.setStation id
        · exact live
    · exact live.saturateAnchor
  | sendStart => exact ⟨_, rfl, whenRunning_live h fun run live => live.tryStart⟩
  | callCharacterSent =>
    refine ⟨_, rfl, whenRunning_live h fun run live => ?_⟩
    split
    · split
      · exact live.setPhase _
      · exact live
    · exact live
  | echoReceived ch =>
    refine ⟨_, rfl, whenRunning_live h fun run live => ?_⟩
    split
    · next on =>
      split
      · exact live
      · exact live.echo run on ch
    · exact live
  | echoTimeout =>
    refine ⟨_, rfl, whenRunning_live h fun run live => ?_⟩
    split
    · next on =>
      split
      · exact live.collide run.toOngoing on _
      · exact live
    · exact live
  | replyTimeout =>
    refine ⟨_, rfl, whenRunning_live h fun run live => ?_⟩
    split
    · next on =>
      split
      · exact live.completeExchange run.toOngoing on (by simp) (by simp)
      · exact live
    · exact live
  | telegramStart ch =>
    refine ⟨_, rfl, whenRunning_live h fun run live => ?_⟩
    split
    · exact ((live.hear _).setFramer _).judgeStart
        ((run.toOngoing.hear ch.stop).setFramer (by split <;> rfl)) ch
    · exact live
  | telegramCharacter b =>
    refine ⟨_, rfl, whenRunning_live h fun run live => ?_⟩
    split
    · split
      · exact (live.hear _).setFramer _
      · exact live
    · exact live
    · exact live
  | telegramFault ch =>
    refine ⟨_, rfl, whenRunning_live h fun run live => ?_⟩
    split
    · split
      · exact ((live.hear _).setFramer _).replyFault ((run.toOngoing.hear ch.stop).setFramer rfl) _
      · exact live
    · exact live
    · exact live
  | telegramPauseTimeout =>
    refine ⟨_, rfl, whenRunning_live h fun run live => ?_⟩
    split
    · split
      · exact (live.setFramer _).replyFault (run.toOngoing.setFramer (by split <;> rfl)) _
      · exact live
    · exact live
    · exact live
  | telegramComplete b =>
    refine ⟨_, rfl, whenRunning_live h fun run live => ?_⟩
    split
    · split
      · exact ((live.hear _).setFramer _).replyComplete ((run.toOngoing.hear .idle).setFramer rfl) _
      · exact live
    · exact live
    · exact live
  | trailingCharacter ch =>
    refine ⟨_, rfl, whenRunning_live h fun run live => ?_⟩
    split
    · exact live.hear _
    · exact live
  | framerGapReached =>
    refine ⟨_, rfl, whenRunning_live h fun run live => ?_⟩
    split
    · exact live.setFramer _
    · exact live
  | lrxIdleReturn | lineQuietSaturated =>
    refine ⟨_, rfl, whenRunning_live h fun run live => ?_⟩
    split
    · exact live.withEngine rfl
    · exact live
  | broadcastSettled =>
    refine ⟨_, rfl, whenRunning_live h fun run live => ?_⟩
    split
    · next on =>
      split
      · exact live.completeExchange run.toOngoing on (by simp) (by simp)
      · exact live
    · exact live
  | silenceTimerExpiry =>
    refine ⟨_, rfl, whenRunning_live h fun run live => ?_⟩
    split
    · exact live
    · split
      · exact live.silenceExpired
      · exact live
  | nrstAssert => exact nrstAssert
  | nrstRelease => exact nrstRelease
  | powerUp => exact powerUp
  | supplyFail => exact supplyFail
  | hrxIdleReturn => exact ⟨_, rfl, .inr ⟨h.agreed.callQueue, h.agreed.reports⟩⟩
  | startBitConfirmed =>
    refine ⟨_, rfl, whenRunning_live h fun run live => ?_⟩
    split
    · exact live.mapPhase (phase := Phase.startBit) rfl
    · exact live

theorem elapse_live (h : DeviceOk s) (n : Nat) : Live (s.elapse n) ∨ Agreed (s.elapse n) := by
  unfold State.elapse
  cases held : s.held with
  | true => exact .inr h.agreed
  | false =>
    have passed : Live (s.withEngine fun g => { g with
        quiet := addCycles n g.quiet
        exchange := g.exchange.map fun x => { x with phase := x.phase.elapse n } }) :=
      (h.live held).mapPhase (phase := Phase.elapse n) rfl
    exact .inl (passed.congr rfl rfl rfl rfl rfl)

end Live

/-- Settles O59: no row takes the live set and the report queue out of agreement. Where the step leaves a running
device, the stations that its exchange may concern come from the timetable it keeps. -/
theorem everyStepKeepsRequestsAndReports : Obligations.EveryStepKeepsRequestsAndReports := by
  intro s t ok run
  have kept := step_kept ok run
  suffices settled : Live t ∨ Agreed t by
    have agreed : Agreed t := settled.elim (fun live => live.agreed kept) id
    exact ⟨agreed.callQueue, agreed.reports⟩
  unfold step at run
  split at run
  · cases run
    exact elapse_live ok 1
  · next c rest _ =>
    obtain ⟨u, next, settled⟩ := exec_live (s := { s with pending := rest }) ok c
    rw [next] at run
    cases run
    exact settled

end Sys2Proof.Machine
end

section
/-!
SUPPORT. PUT, GET, BROADCAST and CANCEL at the Call Queue.
-/

namespace Sys2Proof.Machine

/-! ### Bodies and ranges (R32 to R35, R46, R197) -/

theorem layoutPut_parts (t1 t0 station urgency allowance d1 d0 : Byte) {n : Byte} {payload : List Byte}
    (counted : payload.length = n.toNat) :
    layoutPut ([t1, t0, station, urgency, allowance, d1, d0, n] ++ payload) =
      some ⟨t1 ++ t0, station, urgency, allowance, d1 ++ d0, payload⟩ := by
  have last := readCounted_cons counted []
  rw [List.append_nil] at last
  simp [layoutPut, readHalf, readByte, last, atEnd, halfOf]

theorem layoutGet_parts (t1 t0 station urgency allowance d1 d0 item : Byte) :
    layoutGet [t1, t0, station, urgency, allowance, d1, d0, item] =
      some ⟨t1 ++ t0, station, urgency, allowance, d1 ++ d0, [item]⟩ := rfl

theorem layoutBroadcast_parts (t1 t0 urgency d1 d0 : Byte) {n : Byte} {payload : List Byte}
    (counted : payload.length = n.toNat) :
    layoutBroadcast ([t1, t0, urgency, d1, d0, n] ++ payload) =
      some ⟨t1 ++ t0, 0#8, urgency, 0#8, d1 ++ d0, payload⟩ := by
  have last := readCounted_cons counted []
  rw [List.append_nil] at last
  simp [layoutBroadcast, readHalf, readByte, last, atEnd, halfOf]

theorem layoutCancel_parts (hi lo : Byte) : layoutCancel [hi, lo] = some (hi ++ lo) := rfl

theorem rangeStationRequest_eq_none {kind : RequestKind} {raw : RawRequest} :
    rangeStationRequest kind raw = none ↔
      ¬ (1 ≤ raw.station.toNat ∧ raw.station.toNat ≤ 31 ∧ 1 ≤ raw.urgency.toNat ∧ raw.urgency.toNat ≤ 7 ∧
        raw.allowance.toNat ≤ 7 ∧ 1 ≤ raw.payload.length ∧ raw.payload.length ≤ 32) := by
  rw [Option.eq_none_iff_forall_ne_some]
  constructor
  · rintro none ⟨station, station', urgency, urgency', allowance, payload⟩
    exact none _ (rangeStationRequest_eq_some.2 ⟨⟨raw.station.toNat - 1, by omega⟩, by simp; omega,
      ⟨urgency, urgency'⟩, allowance, payload, rfl⟩)
  · intro outside p inside
    obtain ⟨a, station, urgency, allowance, payload, -⟩ := rangeStationRequest_eq_some.1 inside
    have := a.isLt
    exact outside ⟨by omega, by omega, urgency.1, urgency.2, allowance, payload⟩

theorem rangeBroadcast_eq_none {raw : RawRequest} :
    rangeBroadcast raw = none ↔
      ¬ (1 ≤ raw.urgency.toNat ∧ raw.urgency.toNat ≤ 7 ∧ 1 ≤ raw.payload.length ∧ raw.payload.length ≤ 32) := by
  rw [Option.eq_none_iff_forall_ne_some]
  constructor
  · rintro none ⟨urgency, urgency', payload⟩
    exact none _ (rangeBroadcast_eq_some.2 ⟨⟨urgency, urgency'⟩, payload, rfl⟩)
  · intro outside p inside
    obtain ⟨urgency, payload, -⟩ := rangeBroadcast_eq_some.1 inside
    exact outside ⟨urgency.1, urgency.2, payload⟩

/-- R32 to R34: the three commands are one, once their body is read and judged. -/
theorem State.perform_request {name : CommandName} {params : List Byte} {raw : RawRequest}
    {ranged : Option RequestParams}
    (h : name = .put ∧ layoutPut params = some raw ∧ ranged = rangeStationRequest .put raw ∨
      name = .get ∧ layoutGet params = some raw ∧ ranged = rangeStationRequest .get raw ∨
      name = .broadcast ∧ layoutBroadcast params = some raw ∧ ranged = rangeBroadcast raw) (s : State) :
    (ranged = none → s.perform name params = refuse .outOfRange s) ∧
      ∀ p, ranged = some p → s.perform name params = s.acceptRequest p := by
  rcases h with ⟨rfl, layout, rfl⟩ | ⟨rfl, layout, rfl⟩ | ⟨rfl, layout, rfl⟩ <;>
    exact ⟨fun out => checked_outOfRange layout out, fun p inside => checked_carried layout inside⟩

/-! ### The state checks (R31, R30, R36) -/

section Accept

variable {s : State} {p : RequestParams}

theorem State.acceptRequest_tagInUse (used : ∃ r ∈ s.requests, r.tag = p.tag) :
    s.acceptRequest p = refuse .tagInUse s := by
  have found : (s.findRequest p.tag).isSome = true := by
    rw [← Option.ne_none_iff_isSome, Ne, State.findRequest_none]
    rintro fresh
    obtain ⟨r, hr, same⟩ := used
    exact fresh r hr same
  rw [State.acceptRequest, if_pos found]

theorem State.findRequest_isSome_of_fresh (fresh : ∀ r ∈ s.requests, r.tag ≠ p.tag) :
    ¬ (s.findRequest p.tag).isSome = true := by
  rw [State.findRequest_none.2 fresh]
  decide

theorem State.acceptRequest_queueFull (fresh : ∀ r ∈ s.requests, r.tag ≠ p.tag) (full : 16 ≤ s.requests.length) :
    s.acceptRequest p = refuse .queueFull s := by
  rw [State.acceptRequest, if_neg (State.findRequest_isSome_of_fresh fresh), if_pos full]

theorem State.acceptRequest_notOnline (fresh : ∀ r ∈ s.requests, r.tag ≠ p.tag) (room : s.requests.length < 16)
    (off : s.serves p.station = false) : s.acceptRequest p = refuse .notOnline s := by
  rw [State.acceptRequest, if_neg (State.findRequest_isSome_of_fresh fresh), if_neg (Nat.not_le.2 room),
    if_pos (by rw [off]; rfl)]

/-- R36: the stations that requests may be accepted for. -/
theorem State.serves_iff {d : Dest} :
    s.serves d = true ↔ ∀ a, d = some a → (s.station a).state = .online ∨ (s.station a).state = .suspect := by
  cases d with
  | none => simp [State.serves]
  | some a => cases state : (s.station a).state <;> simp [State.serves, state]

/-- R37: a request just accepted is eligible where no earlier one for its station is in the Call Queue. -/
theorem State.newRequest_eligible {queued : State} {r : Request} (requests : queued.requests = s.requests ++ [r])
    (fresh : ∀ q ∈ s.requests, q.tag ≠ r.tag) (waiting : r.state = .waiting) :
    (queued.eligible.any fun q => q.tag == r.tag) = true ↔
      ¬ ∃ q ∈ s.requests, q.station = r.station ∧ q.state ≠ .reported := by
  rw [List.any_eq_true]
  constructor
  · rintro ⟨q, eligible, same⟩ ⟨other, hother, station, unreported⟩
    obtain ⟨earlier, later, split, -, -, front⟩ := (mem_eligibleAfter _ _ _).1 eligible
    rw [requests] at split
    have same : q.tag = r.tag := by simpa using same
    rcases List.append_eq_append_iff.1 split with ⟨more, rfl, last⟩ | ⟨more, parts, rest⟩
    · cases more with
      | nil =>
        cases last
        exact unreported (front other (by simpa using hother) station)
      | cons x more => simp at last
    · cases more with
      | nil =>
        cases rest
        rw [List.append_nil] at parts
        exact unreported (front other (parts ▸ hother) station)
      | cons x more =>
        cases rest
        exact fresh q (by rw [parts]; simp) same
  · intro alone
    refine ⟨r, (mem_eligibleAfter _ _ _).2 ⟨s.requests, [], requests, waiting, by simp, fun q hq station => ?_⟩,
      by simp⟩
    by_contra unreported
    exact alone ⟨q, hq, station, unreported⟩

/-- R29, R35: the acceptance of a request that passes every check. -/
theorem State.acceptRequest_accepted {queued : State} (fresh : ∀ r ∈ s.requests, r.tag ≠ p.tag)
    (room : s.requests.length < 16) (serves : s.serves p.station = true)
    (hqueued : queued = { s with requests := s.requests ++ [newRequest s.clock p] }) :
    s.acceptRequest p = ⟨.ok, halfBytes p.tag ++ [natByte (s.requests.length + 1)],
      queued.selectIf (queued.eligible.any fun r => r.tag == p.tag)⟩ := by
  subst hqueued
  rw [State.acceptRequest, if_neg (State.findRequest_isSome_of_fresh fresh), if_neg (Nat.not_le.2 room),
    if_neg (by rw [serves]; decide)]
  simp [State.withRequests]

end Accept

/-- Settles O22: the ranges, then the state checks in their order, each with its status and nothing changed. -/
theorem requestsAreRefusedInOrder : Obligations.RequestsAreRefusedInOrder := by
  refine ⟨fun kind raw => rangeStationRequest_eq_none, fun raw => rangeBroadcast_eq_none, ?_⟩
  intro s₀ s seq params name raw ranged takes command
  obtain ⟨out, inside⟩ := State.perform_request command s
  refine ⟨fun none => exec_refused takes (out none), fun p asked => ⟨fun used => ?_, fun fresh full => ?_,
    fun a fresh room station offline unsuspected => ?_⟩⟩
  · exact exec_refused takes ((inside p asked).trans (State.acceptRequest_tagInUse used))
  · exact exec_refused takes ((inside p asked).trans (State.acceptRequest_queueFull fresh full))
  · refine exec_refused takes ((inside p asked).trans (State.acceptRequest_notOnline fresh room ?_))
    rw [← Bool.not_eq_true, State.serves_iff]
    exact fun serves => (serves a station).elim offline unsuspected

/-- Settles O23: the parts, what they ask for, and the request at the end of the live set, selected at once where it is
the first of its station. -/
theorem requestsAreAccepted : Obligations.RequestsAreAccepted := by
  refine ⟨fun t1 t0 station urgency allowance d1 d0 n item payload counted =>
    ⟨layoutPut_parts _ _ _ _ _ _ _ counted, layoutGet_parts _ _ _ _ _ _ _ _, layoutBroadcast_parts _ _ _ _ _ counted⟩,
    ?_, ?_⟩
  · rintro kind raw p deadline rfl
    constructor
    · intro asked
      obtain ⟨a, station, -, -, -, rfl⟩ := rangeStationRequest_eq_some.1 asked
      exact ⟨a, station, rfl⟩
    · intro asked
      obtain ⟨-, -, rfl⟩ := rangeBroadcast_eq_some.1 asked
      rfl
  · intro s₀ s queued seq params name raw p takes command fresh room serves hqueued
    simp only [@eq_comm _ _ (some p)] at command
    have performed : s.perform name params = s.acceptRequest p := (State.perform_request command s).2 p rfl
    have first : (queued.eligible.any fun r => r.tag == p.tag) = true ↔
        ¬ ∃ r ∈ s.requests, r.station = p.station ∧ r.state ≠ .reported :=
      State.newRequest_eligible (r := newRequest s.clock p) (queued := queued) (by rw [hqueued]; rfl) fresh rfl
    rw [exec_row_eq name seq params takes, performed,
      State.acceptRequest_accepted fresh room (State.serves_iff.2 serves) hqueued, State.selectIf]
    have chosen : (if (queued.eligible.any fun r => r.tag == p.tag) = true then queued.select else queued) =
        if ∃ r ∈ s.requests, r.station = p.station ∧ r.state ≠ .reported then queued else queued.select := by
      by_cases earlier : ∃ r ∈ s.requests, r.station = p.station ∧ r.state ≠ .reported
      · rw [if_pos earlier, if_neg fun eligible => first.1 eligible earlier]
      · rw [if_neg earlier, if_pos (first.2 earlier)]
    rw [← chosen]
    rfl

/-- Settles O24: an unknown tag, a request that is no longer WAITING, and one that is and leaves with CANCELLED. -/
theorem cancelActsByTheRequestsState : Obligations.CancelActsByTheRequestsState := by
  intro s₀ s seq hi lo tag takes tagEq
  have performed : s.perform .cancel [hi, lo] = s.cancelRequest tag := by
    rw [tagEq]
    exact checked_carried (range := some) (carry := State.cancelRequest) (layoutCancel_parts hi lo) rfl
  refine ⟨fun absent => ?_, fun r found state => ?_, fun r removed found waiting hremoved => ?_⟩
  · refine exec_refused (name := .cancel) (status := .unknownTag) takes (performed.trans ?_)
    simp only [State.cancelRequest, State.findRequest_none.2 absent]
  · refine exec_refused (name := .cancel) (status := .inFlight) takes (performed.trans ?_)
    rcases state with state | state <;> simp only [State.cancelRequest, found, state]
  · refine exec_accepted (name := .cancel) takes (performed.trans ?_)
    have completed : s.completeRequest tag .cancelled [] = removed := by
      rw [State.completeRequest_eq found, State.findRequest_tag found, hremoved]
    simp only [State.cancelRequest, found, waiting, completed, State.selectIf]

end Sys2Proof.Machine
end

section
/-!
SUPPORT. Candidates, commitments, deadlines and due times.
-/

namespace Sys2Proof.Machine

/-! ### Candidates (R37, R56, R61) -/

/-- R56: a due time is reached once its event has been taken, or the clock is past it (log 8). -/
theorem DueTime.isReached_iff {now : Clock} {d : DueTime} :
    d.isReached now = true ↔ d.reached = true ∨ d.saturated = true ∨
      0 < (now - d.time).toNat ∧ (now - d.time).toNat < 2147483648 := by
  have late : msSince now d.time = (now - d.time).toNat := rfl
  rw [← late, and_comm, Nat.pos_iff_ne_zero]
  simp only [DueTime.isReached, DueTime.arrived, Bool.or_eq_true, Bool.and_eq_true, decide_eq_true_eq, bne_iff_ne,
    or_assoc]

/-- R61: which states call for which call. -/
theorem Station.dueCall?_eq_some {e : Station} {call : DueCall} :
    e.dueCall? = some call ↔
      call = .poll ∧ e.state = .online ∧ 1 ≤ e.level ∨ call = .recoveryPoll ∧ e.state = .suspect ∨
        call = .probe ∧ (e.state = .probing ∨ e.state = .lost) := by
  unfold Station.dueCall?
  cases state : e.state with
  | online => by_cases level : 1 ≤ e.level <;> simp [level, eq_comm]
  | suspect | probing | lost => simp [eq_comm]
  | vacant | parked => simp

/-- R61: a station's own candidate. -/
theorem Station.candidate?_eq_some {now : Clock} {a : Addr} {e : Station} {c : Candidate} :
    e.candidate? now a = some c ↔
      ∃ call d, c = .due call a d ∧ e.dueCall? = some call ∧ e.nextDue = some d ∧ d.isReached now = true := by
  unfold Station.candidate?
  cases calls : e.dueCall? with
  | none => simp
  | some call =>
    cases due : e.nextDue with
    | none => simp
    | some d =>
      dsimp only
      constructor
      · intro isDue
        split at isDue
        · next reached =>
          cases isDue
          exact ⟨call, d, rfl, rfl, rfl, reached⟩
        · cases isDue
      · rintro ⟨_, _, rfl, ⟨⟩, ⟨⟩, reached⟩
        exact if_pos reached

theorem State.request_mem_candidates_iff {s : State} {r : Request} :
    .request r ∈ s.candidates ↔ r ∈ s.eligible := by
  rw [State.candidates, List.mem_append, List.mem_map]
  constructor
  · rintro (⟨q, eligible, same⟩ | due)
    · cases same
      exact eligible
    · obtain ⟨a, -, isDue⟩ := List.mem_filterMap.1 due
      obtain ⟨_, _, other, -⟩ := Station.candidate?_eq_some.1 isDue
      cases other
  · exact fun eligible => .inl ⟨r, eligible, rfl⟩

theorem State.due_mem_candidates_iff {s : State} {call : DueCall} {a : Addr} {d : DueTime} :
    .due call a d ∈ s.candidates ↔
      (s.station a).dueCall? = some call ∧ (s.station a).nextDue = some d ∧ d.isReached s.clock = true := by
  rw [State.candidates, List.mem_append, List.mem_map, State.dueCandidates, List.mem_filterMap]
  constructor
  · rintro (⟨q, -, other⟩ | ⟨b, -, isDue⟩)
    · cases other
    · obtain ⟨_, _, same, parts⟩ := Station.candidate?_eq_some.1 isDue
      cases same
      exact parts
  · exact fun parts => .inr ⟨a, List.mem_finRange a, Station.candidate?_eq_some.2 ⟨call, d, rfl, parts⟩⟩

/-- The call, the address and the due time of a station candidate. -/
def Candidate.dueParts? : Candidate → Option (DueCall × Addr × DueTime)
  | .request _ => none
  | .due call a d => some (call, a, d)

/-- The station candidates as calls, addresses and due times. -/
def State.dueCalls (s : State) : List (DueCall × Addr × DueTime) :=
  (List.finRange 31).filterMap fun a => ((s.station a).candidate? s.clock a).bind Candidate.dueParts?

theorem State.dueCandidates_eq (s : State) :
    s.dueCandidates = s.dueCalls.map fun x => .due x.1 x.2.1 x.2.2 := by
  rw [State.dueCandidates, State.dueCalls, List.map_filterMap]
  refine List.filterMap_congr fun a _ => ?_
  cases candidate : (s.station a).candidate? s.clock a with
  | none => rfl
  | some c =>
    obtain ⟨call, d, rfl, -⟩ := Station.candidate?_eq_some.1 candidate
    rfl

theorem State.dueCalls_pairwise (s : State) : s.dueCalls.Pairwise fun x y => x.2.1 < y.2.1 := by
  have address : ∀ (a : Addr) (x : DueCall × Addr × DueTime),
      ((s.station a).candidate? s.clock a).bind Candidate.dueParts? = some x → x.2.1 = a := by
    intro a x isDue
    obtain ⟨c, candidate, same⟩ := Option.bind_eq_some_iff.1 isDue
    obtain ⟨call, d, rfl, -⟩ := Station.candidate?_eq_some.1 candidate
    cases same
    rfl
  refine List.Pairwise.filterMap _ (fun a b before x hx y hy => ?_) (List.pairwise_lt_finRange 31)
  rw [address a x hx, address b y hy]
  exact before

/-- Settles O51: eligible requests in acceptance order, then by address the stations whose due time is reached. -/
theorem candidatesAreEligibleRequestsAndReachedDueTimes :
    Obligations.CandidatesAreEligibleRequestsAndReachedDueTimes := by
  refine fun s => ⟨fun r => ?_, fun call a d => ?_, s.eligible, s.dueCalls, ?_, eligibleAfter_sublist _ _,
    s.dueCalls_pairwise⟩
  · rw [State.request_mem_candidates_iff, State.eligible, mem_eligibleAfter]
    simp
  · rw [State.due_mem_candidates_iff, DueTime.isReached_iff, Station.dueCall?_eq_some]
    exact ⟨fun ⟨calls, due, reached⟩ => ⟨due, reached, calls⟩, fun ⟨due, reached, calls⟩ => ⟨calls, due, reached⟩⟩
  · rw [State.candidates, State.dueCandidates_eq]

/-! ### Commitments (R67, R92) -/

/-- R92: where the line allows the call it begins at once. -/
theorem LineEngine.commit_eq {starts : Bool} {phase : Phase} {g : LineEngine} (r : ExchangeRecord)
    (hstarts : starts = g.maySend) (hphase : phase = if starts then .sending 0 0 0 else .gap) :
    LineEngine.commit r g =
      { g with lde := if starts then true else g.lde, exchange := some { record := r, phase := phase } } := by
  have may : ({ g with exchange := some ⟨r, .gap⟩ } : LineEngine).maySend = starts := hstarts.symm
  unfold LineEngine.commit LineEngine.tryStart
  dsimp only
  rw [may, hphase]
  cases starts <;> rfl

/-- R38, R67: the exchange record of a request. -/
theorem State.requestRecord_eq {r : Request} {kind : CallKind} (s : State)
    (h : r.kind = .put ∧ kind = .put ∨ r.kind = .get ∧ kind = .get ∨ r.kind = .broadcast ∧ kind = .bcast) :
    s.requestRecord r =
      { origin := .request r.tag
        station := r.station
        kind := kind
        payload := r.payload
        toggleSent := if r.kind = .put then r.station.map fun a => (s.station a).toggle else none
        imageLength := none
        orphaned := false } := by
  unfold State.requestRecord
  rcases h with ⟨hr, rfl⟩ | ⟨hr, rfl⟩ | ⟨hr, rfl⟩
  · cases station : r.station <;> simp [hr]
  · simp [hr]
  · simp [hr]

/-- R67: the exchange record of a poll, recovery poll or probe. -/
theorem State.dueRecord_eq {call : DueCall} {d : DueTime} {origin : Origin} {kind : CallKind} (s : State) (a : Addr)
    (h : call = .poll ∧ origin = .poll d ∧ kind = .poll ∨
      call = .recoveryPoll ∧ origin = .recoveryPoll d ∧ kind = .poll ∨
      call = .probe ∧ origin = .probe d ∧ kind = .hail) :
    s.dueRecord call a d =
      { origin := origin
        station := some a
        kind := kind
        payload := []
        toggleSent := none
        imageLength := if kind = .poll then some (s.station a).imageLength else none
        orphaned := false } := by
  rcases h with ⟨rfl, rfl, rfl⟩ | ⟨rfl, rfl, rfl⟩ | ⟨rfl, rfl, rfl⟩ <;> rfl

/-- Settles O53: the record of each kind of commitment, and the exchange in GAP or past it. -/
theorem commitmentFormsTheExchange : Obligations.CommitmentFormsTheExchange := by
  intro s starts phase hstarts hphase
  constructor
  · intro r kind h
    rw [State.commit, State.withEngine, State.updateRequest_engine, LineEngine.commit_eq _ hstarts hphase,
      State.requestRecord_eq s h]
    rfl
  · intro call a d origin kind h
    rw [State.commit, State.withEngine, State.withStation_engine, LineEngine.commit_eq _ hstarts hphase,
      State.dueRecord_eq s a h]
    rfl

/-! ### Deadlines and due times (R45, R56) -/

/-- R39: a deadline that has passed. -/
theorem Request.deadlinePassed_of_le {r : Request} {n : Nat} {now : Clock} (deadline : r.deadline = some n)
    (passed : n ≤ (now - r.acceptedAt).toNat) : r.deadlinePassed now = true := by
  rw [Request.deadlinePassed, deadline]
  exact decide_eq_true passed

/-- R56: a reached due time whose lateness has come to its largest value. -/
theorem DueTime.latenessFull_of_le {now : Clock} {d : DueTime} (reached : d.reached = true)
    (late : 2147483647 ≤ (now - d.time).toNat) : d.latenessFull now = true := by
  have isReached : d.isReached now = true := DueTime.isReached_iff.2 (.inl reached)
  simp [DueTime.latenessFull, isReached, (DueTime.lateness_eq_cap reached).2 (.inr late)]

theorem DueTime.saturate_of_reached {d : DueTime} (reached : d.reached = true) :
    d.saturate = { d with saturated := true } := by
  rw [DueTime.saturate, ← reached]

/-- R45: what the expiry of a deadline does to the request that holds the tag. -/
theorem exec_deadlineExpiry {s removed : State} {r : Request} {n : Nat} (running : s.held = false)
    (found : s.findRequest r.tag = some r) (deadline : r.deadline = some n)
    (passed : n ≤ (s.clock - r.acceptedAt).toNat)
    (completed : s.completeRequest r.tag .expired [] = removed) :
    (r.state = .waiting →
      exec (.deadlineExpiry r.tag) s =
        .next (if removed.hasEligible r.station then removed.select else removed)) ∧
    (r.state ≠ .waiting → exec (.deadlineExpiry r.tag) s = .next s) := by
  have row : exec (.deadlineExpiry r.tag) s = .next (if r.state = .waiting ∧ r.deadlinePassed s.clock = true then
      removed.selectIf (removed.hasEligible r.station) else s) := by
    show execDeadlineExpiry r.tag s = _
    rw [execDeadlineExpiry, whenRunning_of_running running, found]
    dsimp only
    rw [completed]
  rw [row]
  refine ⟨fun waiting => ?_, fun other => ?_⟩
  · rw [if_pos ⟨waiting, Request.deadlinePassed_of_le deadline passed⟩, State.selectIf]
  · rw [if_neg fun both => other both.1]

/-- Settles O36: the rows of a deadline, of a due time and of a lateness, where each is an event. -/
theorem deadlinesExpireAndDueTimesAreReached : Obligations.DeadlinesExpireAndDueTimesAreReached := by
  intro s running
  refine ⟨fun removed r n found deadline passed hremoved => ?_, fun a d due unreached arrived => ?_,
    fun a d due reached late => ?_, fun x d marked origin on hmarked kind reached late => ?_⟩
  · exact exec_deadlineExpiry running found deadline passed (by rw [State.completeRequest_eq found, hremoved])
  · show execDueTimeReached a s = _
    rw [execDueTimeReached, whenRunning_of_running running, due]
    dsimp only
    have come : d.arrived s.clock = true := decide_eq_true arrived
    rw [unreached, come]
    rfl
  · show execLatenessSaturated (.entry a) s = _
    rw [execLatenessSaturated, whenRunning_of_running running]
    dsimp only
    rw [due]
    dsimp only
    rw [if_pos (DueTime.latenessFull_of_le reached late), DueTime.saturate_of_reached reached]
    rfl
  · have full := DueTime.latenessFull_of_le reached late
    have saturated : x.record.origin.saturate s.clock = origin := by
      rw [hmarked, ← DueTime.saturate_of_reached reached] at kind
      rcases kind with ⟨from_, rfl⟩ | ⟨from_, rfl⟩ | ⟨from_, rfl⟩ <;> rw [from_, Origin.saturate] <;>
        exact if_pos full
    show execLatenessSaturated .anchor s = _
    rw [execLatenessSaturated, whenRunning_of_running running]
    dsimp only
    rw [State.withEngine, on, Option.map_some, saturated]

end Sys2Proof.Machine
end

section
/-!
SUPPORT. What the outcome of a request's call does to the request and to its station.
-/

namespace Sys2Proof.Machine

/-! ### The request (R40 to R44, R49, R50) -/

/-- R42, R44: what a miss makes of a request that has now been attempted once more. -/
theorem Request.missFate_attempted (now : Clock) (orphaned : Bool) (o : ExOutcome) (r : Request) :
    (r.attempted o).missFate now orphaned =
      if orphaned = true ∨ r.allowance < r.attempts + 1 then some .failed
      else if r.deadlinePassed now = true then some .expired
      else none := by
  show (if orphaned then _ else if r.allowance < r.attempts + 1 then _ else if r.deadlinePassed now then _ else _) = _
  cases orphaned with
  | true => simp
  | false => simp

/-- R40, R49, R50: everything the final result of an attempted request does. -/
theorem State.completeRequest_attempted {s : State} {r : Request} (found : s.findRequest r.tag = some r)
    (outcome : ExOutcome) (result : RequestResult) (data : List Byte) :
    (s.updateRequest r.tag (Request.attempted outcome)).completeRequest r.tag result data =
      { s with
        requests := s.requests.map fun q =>
          if q.tag = r.tag then { q.attempted outcome with state := .reported } else q
        reports :=
          { s.reports with
            queue := s.reports.queue ++
              [⟨.result r.tag r.kind result (r.attempts + 1) (some outcome) data, .unsent⟩]
            attn := true } } := by
  have found' : (s.updateRequest r.tag (Request.attempted outcome)).findRequest r.tag = some (r.attempted outcome) := by
    rw [State.findRequest_updateRequest (by intro; rfl), found, Option.map_some]
  have both : (s.updateRequest r.tag (Request.attempted outcome)).updateRequest r.tag
        (fun q => { q with state := .reported }) =
      s.updateRequest r.tag fun q => { q.attempted outcome with state := .reported } :=
    State.updateRequest_updateRequest (by intro; rfl)
  rw [State.completeRequest_eq found']
  congr 1
  exact congrArg State.requests both

/-! ### The station (R18, R20, R21, R28) -/

section Station

variable {d : Delivery}

/-- R18, R28: an answer to a POLL, PUT or GET. -/
theorem Station.count_answer (kind : d.record.kind ≠ .hail)
    (answer : d.outcome = .good ∨ ∃ reason, d.outcome = .refused reason) (now : Clock) (e : Station) :
    e.count now d =
      { e with
        goodExchanges := satInc e.goodExchanges
        toggle := if d.record.kind = .put then !e.toggle else e.toggle } := by
  have heard : d.outcome.isMiss = false ∧ d.outcome.isAnswer = true := by
    rcases answer with good | ⟨reason, refused⟩
    · rw [good]; exact ⟨rfl, rfl⟩
    · rw [refused]; exact ⟨rfl, rfl⟩
  by_cases put : d.record.kind = .put <;> simp [Station.count, kind, heard, put]

/-- R24, R36: a POLL, PUT or GET of a station that became LOST while the call was on the line. -/
theorem State.applyOutcome_lostCall {s : State} {a : Addr} (lost : (s.station a).state = .lost)
    (kind : d.record.kind ≠ .hail) :
    s.applyOutcome a d = (s.setStation a ((s.station a).count s.clock d)).removeWaiting a .stationLost := by
  have state : ((s.withStation a (Station.count s.clock d)).station a).state = .lost := by
    rw [State.withStation, State.station_setStation_self, Station.count_state, lost]
  unfold State.applyOutcome
  dsimp only
  rw [state]
  exact if_neg kind

/-- R20, R21: an answer to a request. -/
theorem Station.answered_request (now : Clock) (tag : Half) (e : Station) :
    e.answered now (.request tag) =
      { e with
        state := .online
        missCount := 0
        nextDue := if e.state = .suspect ∧ e.level = 0 then none else e.nextDue } := by
  by_cases suspect : e.state = .suspect
  · by_cases level : e.level = 0 <;>
      simp [Station.answered, Station.afterRequestAnswer, suspect, level, Nat.one_le_iff_ne_zero]
  · simp [Station.answered, suspect]

end Station

/-- Settles O43: the request by its fate, the station by its state. -/
theorem outcomeDecidesTheRequest : Obligations.OutcomeDecidesTheRequest := by
  intro s r d fate found collision hfate
  have isFate : (r.attempted d.outcome).fate s.clock d.record.orphaned d.outcome = fate := by
    rw [hfate]
    cases outcome : d.outcome with
    | collision detail => exact absurd outcome (collision detail)
    | good | refused reason | sent => rfl
    | noReply | garbled detail | wrongSource | stale => exact Request.missFate_attempted _ _ _ r
  refine ⟨fun waits => ?_, fun result final => ?_, fun a e origin kind answer entry state => ?_,
    fun a e counted nodup kind entry lost outcome => ?_⟩
  · rw [State.decideRequest_eq d found, isFate, waits]
    rfl
  · have data : (if result = .done then r.resultData d.data else []) =
        if result = .done ∧ r.kind = .get then d.data else [] := by
      rw [Request.resultData, ite_and]
    rw [State.decideRequest_eq d found, isFate, final, ← data]
    exact State.completeRequest_attempted found _ _ _
  · subst entry
    have unpolled : d.record.kind ≠ .poll ∧ d.record.kind ≠ .hail := by
      rcases kind with kind | kind <;> rw [kind] <;> decide
    have heard : d.outcome.isMiss = false := by
      rcases answer with good | ⟨reason, refused⟩
      · rw [good]; rfl
      · rw [refused]; rfl
    rw [State.applyOutcome_answer state unpolled.2 heard, if_neg fun polled => unpolled.1 polled.1, origin,
      Station.answered_request, Station.count_answer unpolled.2 answer, satInc_eq]
  · subst entry
    have notHail : d.record.kind ≠ .hail := by
      rcases kind with kind | kind | kind <;> rw [kind] <;> decide
    have isCounted : (s.station a).count s.clock d = counted := by
      rcases outcome with ⟨answer, rfl⟩ | ⟨miss, rfl⟩
      · rw [Station.count_answer notHail answer, satInc_eq]
      · rw [Station.count_miss notHail (ExOutcome.isMiss_iff.2 miss), satInc_eq]
    rw [State.applyOutcome_lostCall lost notHail, isCounted,
      State.removeWaiting_eq (s := s.setStation a counted) nodup]
    rfl

end Sys2Proof.Machine
end

section
/-!
SUPPORT. The lateness of a due time, and the selection where it is made and where it is not.
-/

namespace Sys2Proof.Machine

/-! ### Lateness (R56) -/

/-- R56: the saturated mark holds the lateness at its largest value (log 18). -/
theorem DueTime.lateness_of_saturated {d : DueTime} (saturated : d.saturated = true) (now : Clock) :
    d.lateness now = 2147483647 :=
  if_pos saturated

/-- R56: without the mark, the lateness of a reached due time is the difference of the clock, up to its largest
value. -/
theorem DueTime.lateness_of_reached {d : DueTime} {now : Clock} (unmarked : d.saturated = false)
    (reached : d.reached = true ∨ 0 < (now - d.time).toNat ∧ (now - d.time).toNat < 2147483648) :
    d.lateness now = min 2147483647 (now - d.time).toNat := by
  have isReached : d.isReached now = true := isReached_iff.2 (reached.imp_right .inr)
  rw [lateness, unmarked, if_neg Bool.false_ne_true, if_pos isReached]
  rfl

/-- R56: a due time that is still ahead, or whose own millisecond has just come (log 8), is not late. -/
theorem DueTime.lateness_of_ahead {d : DueTime} {now : Clock} (unmarked : d.saturated = false)
    (unreached : d.reached = false) (ahead : (now - d.time).toNat = 0 ∨ 2147483648 ≤ (now - d.time).toNat) :
    d.lateness now = 0 := by
  have notReached : ¬ d.isReached now = true := by
    rw [isReached_iff, unmarked, unreached]
    simp only [Bool.false_eq_true, false_or]
    omega
  rw [lateness, unmarked, if_neg Bool.false_ne_true, if_neg notReached]

/-! ### The selection (R63, R64, R66) -/

/-- R64, R66: without the three conditions, or without a candidate, a selection changes nothing. -/
theorem State.select_of_blocked {s : State}
    (blocked : s.engine.exchange ≠ none ∨ s.engine.role ≠ .master ∨ s.fallback.pending = true ∨ s.candidates = []) :
    s.select = s := by
  rcases s.select_cases with same | ⟨c, may, -, chosen, -⟩
  · exact same
  · obtain ⟨idle, master, noFallback⟩ := s.maySelect_iff.1 may
    rcases blocked with busy | role | fallback | empty
    · exact absurd idle busy
    · exact absurd master role
    · exact absurd (noFallback.symm.trans fallback) Bool.false_ne_true
    · exact absurd chosen (empty ▸ List.not_mem_nil)

/-- R63, R66: under the three conditions a selection commits the candidate that beats each before it and is beaten
by none behind it. -/
theorem State.select_best {s : State} (may : s.maySelect = true) (nonempty : s.candidates ≠ []) :
    ∃ before c after, s.candidates = before ++ c :: after ∧ s.select = s.commit c ∧
      (∀ b ∈ before, s.beats c b = true) ∧ ∀ b ∈ after, ¬ s.beats b c = true := by
  obtain ⟨noneIff, best⟩ := s.bestOf_spec s.candidates
  obtain ⟨c, chosen⟩ := Option.ne_none_iff_exists'.1 fun isNone => nonempty (noneIff.1 isNone)
  obtain ⟨before, after, split, front, back⟩ := best c chosen
  have committed : s.select = s.commit c := by rw [State.select, if_pos may, chosen]
  exact ⟨before, c, after, split, committed, front, back⟩

/-- Settles O52: the lateness by cases, the value and class of each kind of candidate, and the selection blocked or
made. -/
theorem selectionCommitsTheBestCandidate : Obligations.SelectionCommitsTheBestCandidate := by
  rintro s better rfl
  refine ⟨?_, fun r => ⟨rfl, rfl⟩, fun a d => ⟨rfl, rfl, rfl, rfl, rfl, rfl⟩, State.select_of_blocked, ?_⟩
  · rintro d now late rfl
    exact ⟨fun saturated => DueTime.lateness_of_saturated saturated now, DueTime.lateness_of_reached,
      DueTime.lateness_of_ahead⟩
  · intro idle master noFallback candidates
    have may := s.maySelect_iff.2 ⟨idle, master, noFallback⟩
    simpa only [State.beats_iff] using State.select_best may candidates

end Sys2Proof.Machine
end

section
/-!
SUPPORT. Host frames byte by byte: what the receiver holds while it assembles one, the frame its CRC low byte completes,
and the round trip of a frame as the device builds it.
-/

namespace Sys2Proof.Machine

/-! ### The receiver while it assembles a frame (R156 to R158) -/

/-- The device is running, HRX is high and the receiver holds these bytes of a frame. -/
structure State.Assembling (s : State) (bytes : List Byte) : Prop where
  running : s.held = false
  high : s.host.hrx = .high
  receiver : ∃ since, s.host.receiver = .assembling bytes since

theorem State.after_of_next {c : Instr} {s t : State} (h : exec c s = .next t) : s.after c = t := by
  rw [State.after, h]

/-- R156: the lead byte opens a frame. -/
theorem State.assembling_leadByte {s : State} (running : s.held = false) (high : s.host.hrx = .high)
    (hunting : s.host.receiver = .hunting) : (s.after .leadByte).Assembling [] := by
  have row : exec .leadByte s = .next (s.withHost fun h => { h with receiver := .assembling [] s.clock }) := by
    show execLeadByte s = _
    rw [execLeadByte, whenRunning_of_running running, hunting]
    dsimp only
    rw [if_pos (by simp [HostLink.listening, high])]
  rw [State.after_of_next row]
  exact ⟨running, high, s.clock, rfl⟩

/-- R157: a byte before the CRC low byte, and no bad length, fills the next position. -/
theorem State.Assembling.frameByte {s : State} {bytes : List Byte} {b : Byte} (h : s.Assembling bytes)
    (before : crcLowNext bytes = false) (length : bytes = [] → lengthIsBad b = false) :
    (s.after (.frameByte b)).Assembling (bytes ++ [b]) := by
  obtain ⟨since, receiver⟩ := h.receiver
  have inRange : (bytes.isEmpty && lengthIsBad b) = false := by
    cases bytes with
    | nil => exact length rfl
    | cons l rest => rfl
  have row : exec (.frameByte b) s =
      .next (s.withHost fun h => { h with receiver := .assembling (bytes ++ [b]) s.clock }) := by
    show execFrameByte b s = _
    rw [execFrameByte, whenRunning_of_running h.running, receiver]
    dsimp only
    rw [before, inRange, if_pos (by simp [HostLink.listening, h.high])]
  rw [State.after_of_next row]
  exact ⟨h.running, h.high, s.clock, rfl⟩

/-- R154: behind the length byte L the CRC low byte is the next one once L + 1 more bytes are there. -/
theorem crcLowNext_cons (l : Byte) (rest : List Byte) :
    crcLowNext (l :: rest) = decide (rest.length = l.toNat + 1) := by
  rw [crcLowNext, List.length_cons, Bool.beq_eq_decide_eq]
  simp

/-- R157: behind a length byte in range every byte up to the CRC high byte fills its position. -/
theorem State.Assembling.receive {l : Byte} {rest : List Byte} :
    ∀ {s : State} {sofar : List Byte}, s.Assembling (l :: sofar) → sofar.length + rest.length ≤ l.toNat + 1 →
      (s.receive rest).Assembling (l :: sofar ++ rest) := by
  induction rest with
  | nil =>
    intro s sofar h _
    simpa [State.receive] using h
  | cons b rest ih =>
    intro s sofar h room
    rw [List.length_cons] at room
    have before : crcLowNext (l :: sofar) = false := by rw [crcLowNext_cons]; simp; omega
    have next : (s.after (.frameByte b)).Assembling (l :: (sofar ++ [b])) := h.frameByte before (by simp)
    have filled := ih next (by simp; omega)
    simpa [State.receive] using filled

/-- R158: the frame that the CRC low byte completes. -/
theorem State.Assembling.completedBy? {s : State} {bytes : List Byte} (h : s.Assembling bytes)
    (full : crcLowNext bytes = true) (b : Byte) :
    s.host.completedBy? b =
      some ⟨bytes.getD 1 0#8, bytes.getD 2 0#8, (bytes.drop 3).dropLast, crc16 (bytes ++ [b]) == 0#16⟩ := by
  obtain ⟨since, receiver⟩ := h.receiver
  rw [HostLink.completedBy?, receiver]
  exact if_pos (by simp [HostLink.listening, h.high, full])

/-! ### The CRC of a frame as built (R80, R154) -/

/-- R80, R158: behind a byte string and the high byte of its CRC, only the low byte of its CRC is right. -/
theorem crc16_check_low (covered : List Byte) (b : Byte) :
    crc16 (covered ++ [(crc16 covered).extractLsb' 8 8] ++ [b]) = 0#16 ↔ b = (crc16 covered).extractLsb' 0 8 := by
  rw [List.append_assoc, List.singleton_append, crc16_check]
  have whole := congrArg BitVec.toNat (halfOf_halfBytes (crc16 covered))
  rw [halfOf_toNat] at whole
  have joined := halfOf_toNat ((crc16 covered).extractLsb' 8 8) b
  constructor
  · intro same
    have := congrArg BitVec.toNat same
    exact BitVec.eq_of_toNat_eq (by rw [halfOf] at joined; omega)
  · rintro rfl
    exact (halfOf_halfBytes _).symm

/-- R154, R196: the last byte of a frame as built, and the bytes between it and the lead byte. -/
theorem eq_of_hostFrame_eq {kind seq last : Byte} {body middle covered : List Byte}
    (hcovered : covered = natByte (body.length + 2) :: kind :: seq :: body)
    (built : hostFrame kind seq body = 0xA7#8 :: middle ++ [last]) :
    middle = covered ++ [(crc16 covered).extractLsb' 8 8] ∧ last = (crc16 covered).extractLsb' 0 8 := by
  rw [hostFrame, ← hcovered] at built
  have bytes : covered ++ [(crc16 covered).extractLsb' 8 8] ++ [(crc16 covered).extractLsb' 0 8] =
      middle ++ [last] := by
    simpa [halfBytes] using built
  obtain ⟨front, back⟩ := List.append_inj' bytes rfl
  exact ⟨front.symm, (List.singleton_inj.1 back).symm⟩

/-- R154, R158: the bytes of a frame as built, up to the high byte of its CRC, are read back whole by the byte behind
them, which is right as the low byte of the CRC alone. -/
theorem State.Assembling.completedBy?_built {s : State} {kind seq l : Byte} {body covered : List Byte}
    (hcovered : covered = l :: kind :: seq :: body) (length : l.toNat = body.length + 2)
    (h : s.Assembling (covered ++ [(crc16 covered).extractLsb' 8 8])) (b : Byte) :
    s.host.completedBy? b = some ⟨kind, seq, body, decide (b = (crc16 covered).extractLsb' 0 8)⟩ := by
  have full : crcLowNext (covered ++ [(crc16 covered).extractLsb' 8 8]) = true := by
    rw [hcovered, List.cons_append, crcLowNext_cons]
    simp [length]
  have check : (crc16 (covered ++ [(crc16 covered).extractLsb' 8 8] ++ [b]) == 0#16) =
      decide (b = (crc16 covered).extractLsb' 0 8) := by
    rw [Bool.beq_eq_decide_eq, decide_eq_decide]
    exact crc16_check_low covered b
  rw [h.completedBy? full, check]
  simp [hcovered]

/-- Settles O29: the lead byte opens the frame, the length byte is in range, and each later byte up to the high byte of
the CRC fills its position. -/
theorem frameSentIsFrameReceived : Obligations.FrameSentIsFrameReceived := by
  intro s kind seq last b body middle running high hunting short built
  obtain ⟨covered, hcovered⟩ : ∃ covered, covered = natByte (body.length + 2) :: kind :: seq :: body := ⟨_, rfl⟩
  obtain ⟨hmiddle, hlast⟩ := eq_of_hostFrame_eq hcovered built
  have length : (natByte (body.length + 2)).toNat = body.length + 2 := by simp [natByte]; omega
  have inRange : lengthIsBad (natByte (body.length + 2)) = false := by simp [lengthIsBad, length]; omega
  have opened := (State.assembling_leadByte running high hunting).frameByte rfl fun _ => inRange
  have collected : ((s.after .leadByte).receive middle).Assembling middle := by
    rw [hmiddle, hcovered]
    exact opened.receive (by simp [length])
  rw [hmiddle] at collected ⊢
  have read := collected.completedBy?_built hcovered length
  refine ⟨?_, fun differs => ?_⟩
  · rw [read, hlast, decide_eq_true rfl]
  · rw [read, decide_eq_false fun same => differs (same.trans hlast.symm)]

end Sys2Proof.Machine
end

section
/-!
SUPPORT. The completion of an exchange: what follows it in each role, and that it does what `CompletesTo` says (R106,
R107, R112, R120, R190, R192).
-/

namespace Sys2Proof.Machine

/-! ### What the fallback does once the Line Engine is IDLE (R190 to R192) -/

theorem State.endFallback_eq (detail : LineDetail) (s : State) :
    s.endFallback detail =
      State.putReport (.line s.engine.role .off .fallback detail 0)
        { s with
          engine := { s.engine with role := .off }
          fallback := { s.fallback with timer := none, pending := false, phase := .none } } := rfl

theorem State.advanceFallback_commits {s : State} {payload : List Byte} (h : s.fallback.payload = some payload) :
    s.advanceFallback =
      { s with
        engine := LineEngine.tryStart { s.engine with exchange := some ⟨fallbackRecord payload, .gap⟩ }
        fallback := { s.fallback with phase := .broadcast } } := by
  rw [State.advanceFallback, h]
  rfl

theorem State.advanceFallback_omits {s : State} (h : s.fallback.payload = none) :
    s.advanceFallback = s.endFallback .omitted := by
  rw [State.advanceFallback, h]

/-! ### What follows a completion (R106) -/

theorem State.afterCompletion_selects {record : ExchangeRecord} {s : State} (master : s.engine.role = .master)
    (served : record.origin ≠ .fallback) (pending : s.fallback.pending = false) :
    s.afterCompletion record = s.select := by
  rw [State.afterCompletion, master]
  simp [served, pending]

theorem State.afterCompletion_advances {record : ExchangeRecord} {s : State} (master : s.engine.role = .master)
    (served : record.origin ≠ .fallback) (pending : s.fallback.pending = true) :
    s.afterCompletion record = s.advanceFallback := by
  rw [State.afterCompletion, master]
  simp [served, pending]

theorem State.afterCompletion_stops {record : ExchangeRecord} {s : State} (stopping : s.engine.role = .stopping)
    (served : record.origin ≠ .fallback) :
    s.afterCompletion record =
      State.putReport (.line .stopping .off .stopped .none 0)
        { s with
          engine := { s.engine with role := .off }
          fallback := { s.fallback with timer := none, pending := false, phase := .none } } := by
  rw [State.afterCompletion, stopping]
  dsimp only
  rw [if_neg served]
  rfl

theorem State.afterCompletion_ends {record : ExchangeRecord} {s : State}
    (on : s.engine.role = .master ∨ s.engine.role = .stopping) (fallback : record.origin = .fallback) :
    s.afterCompletion record = s.endFallback .sent := by
  rcases on with role | role <;>
  · rw [State.afterCompletion, role]
    exact if_pos fallback

/-! ### The completion (R106, R107, R112) -/

/-- The exchange is over: LDE is released and the outcome counted. -/
def State.closed (outcome : ExOutcome) (s : State) : State :=
  s.withEngine fun e => { e with exchange := none, lde := false, counters := e.counters.completed outcome }

theorem State.completeExchange_eq {s : State} {x : Exchange} (on : s.engine.exchange = some x) (outcome : ExOutcome)
    (data : List Byte) :
    s.completeExchange outcome data =
      ((s.closed outcome).dispatch ⟨x.record, outcome, data⟩).afterCompletion x.record := by
  rw [State.completeExchange, on]
  rfl

/-- R106, R107, R112: every completion is as `CompletesTo` says. -/
theorem State.completeExchange_completesTo {s : State} {x : Exchange} (on : s.engine.exchange = some x)
    (outcome : ExOutcome) (data : List Byte) : s.CompletesTo x outcome data (s.completeExchange outcome data) := by
  rw [State.completeExchange_eq on]
  have sameRole : ((s.closed outcome).dispatch ⟨x.record, outcome, data⟩).engine.role = s.engine.role := by
    rw [State.dispatch_engine]; rfl
  have sameFallback : ((s.closed outcome).dispatch ⟨x.record, outcome, data⟩).fallback = s.fallback := by
    rw [State.dispatch_fallback]; rfl
  refine ⟨s.closed outcome, _, (s.closed outcome).dispatch ⟨x.record, outcome, data⟩, ?_, rfl, ?_, ?_⟩
  · simp only [← satInc_eq]
    cases outcome <;> rfl
  · unfold State.dispatch
    cases x.record.origin <;> rfl
  generalize (s.closed outcome).dispatch ⟨x.record, outcome, data⟩ = applied at sameRole sameFallback ⊢
  rw [← sameRole, ← sameFallback]
  refine ⟨State.afterCompletion_selects, fun master served pending => ?_, State.afterCompletion_stops,
    fun on fallback => ?_⟩
  · rw [State.afterCompletion_advances master served pending]
    refine ⟨fun payload held => State.advanceFallback_commits held, fun omitted => ?_⟩
    rw [State.advanceFallback_omits omitted, State.endFallback_eq, master]
  · rw [State.afterCompletion_ends on fallback, State.endFallback_eq]

end Sys2Proof.Machine
end

section
/-!
SUPPORT. The field line as heard: what a character leaves, when a pause or the quiet is long enough, and the rows of the
framer's later characters and of quiet.
-/

namespace Sys2Proof.Machine

/-! ### Quiet and pauses (R75, R83, R92) -/

theorem charTimesExceeded_eq (cycles bps n : Nat) :
    charTimesExceeded cycles bps n = decide (160000000 * n < cycles * bps) := by
  have : n * Config.bitsPerCharacter * Config.clkHz = 160000000 * n := by
    simp only [Config.bitsPerCharacter, Config.clkHz]; omega
  rw [charTimesExceeded, this]

theorem LineEngine.isQuiet_iff (g : LineEngine) :
    g.isQuiet = true ↔ g.charInProgress = false ∧ g.lrxHeld = false := by
  simp [LineEngine.isQuiet]

/-- R92: on a quiet line the gap is reached after its character times. -/
theorem LineEngine.gapReached_of_quiet {g : LineEngine} (quiet : g.isQuiet = true) :
    g.gapReached = decide (160000000 * g.params.gap ≤ g.quiet * g.params.rate.bps) := by
  rw [LineEngine.gapReached, quiet, charTimesRun_eq, Bool.true_and]

/-- R83: on a quiet line a pause is too long past 2 character times. -/
theorem LineEngine.pauseExceeded_of_quiet {g : LineEngine} (quiet : g.isQuiet = true) :
    g.pauseExceeded = decide (320000000 < g.quiet * g.params.rate.bps) := by
  rw [LineEngine.pauseExceeded, quiet, charTimesExceeded_eq, Bool.true_and]
  rfl

/-! ### A character heard (R74, R75, R122) -/

/-- A character in good form leaves a line that is not held away from idle as it is. -/
theorem State.hear_idle {s : State} (free : s.engine.lrxHeld = false) :
    s.hear .idle =
      { s with
        engine :=
          { s.engine with quiet := 0, charInProgress := false, quietSince := s.clock, quietSaturated := false } } := by
  have idle : (StopBit.idle == .errorHeld) = s.engine.lrxHeld := by rw [free]; rfl
  rw [State.hear, State.withEngine, LineEngine.hear, idle]

/-! ### The framer's later characters and its return to READY (R81, R83) -/

/-- R83: behind a length byte l the CRC low character is the next one once l + 1 more characters are there. -/
theorem telegramCrcLowNext_eq_false {chars : List Byte}
    (h : ∀ p q l rest, chars = p :: q :: l :: rest → rest.length ≠ l.toNat + 1) : telegramCrcLowNext chars = false := by
  match chars, h with
  | [], _ => rfl
  | [_], _ => rfl
  | [_, _], _ => rfl
  | p :: q :: l :: rest, h =>
    have := h p q l rest rfl
    simp [telegramCrcLowNext, List.length_cons]
    omega

theorem exec_telegramCharacter {s : State} {b : Byte} {chars : List Byte} (running : s.held = false)
    (framing : s.engine.framing = true) (collecting : s.engine.framer = .collecting chars)
    (short : telegramLengthBad chars b = false) (before : telegramCrcLowNext chars = false) :
    exec (.telegramCharacter b) s = .next ((s.hear .idle).setFramer (.collecting (chars ++ [b]))) := by
  show execTelegramCharacter b s = _
  rw [execTelegramCharacter, whenRunning_of_running running, collecting]
  dsimp only
  rw [framing, before, short]
  rfl

theorem exec_trailingCharacter {s : State} (ch : RxChar) (running : s.held = false)
    (framing : s.engine.framing = true) (skipping : s.engine.framer = .skipping) :
    exec (.trailingCharacter ch) s = .next (s.hear ch.stop) := by
  show execTrailingCharacter ch s = _
  rw [execTrailingCharacter, whenRunning_of_running running, framing, skipping]
  rfl

theorem exec_framerGapReached {s : State} (running : s.held = false) (framing : s.engine.framing = true)
    (skipping : s.engine.framer = .skipping) (gap : s.engine.gapReached = true) :
    exec .framerGapReached s = .next (s.setFramer .ready) := by
  show execFramerGapReached s = _
  rw [execFramerGapReached, whenRunning_of_running running, framing, skipping, gap]
  rfl

/-! ### The start and the end of quiet (R74, R99, R122) -/

theorem exec_lrxIdleReturn {s : State} (running : s.held = false) (held : s.engine.lrxHeld = true) :
    exec .lrxIdleReturn s =
      .next (s.withEngine fun g =>
        { g with lrxHeld := false, quiet := 0, quietSince := s.clock, quietSaturated := false }) := by
  show execLrxIdleReturn s = _
  rw [execLrxIdleReturn, whenRunning_of_running running, if_pos held]

theorem exec_startBitConfirmed {s : State} (running : s.held = false) (quiet : s.engine.isQuiet = true) :
    exec .startBitConfirmed s =
      .next (s.withEngine fun g =>
        { g with
          charInProgress := true
          exchange := g.exchange.map fun x => { x with phase := x.phase.startBit } }) := by
  show execStartBitConfirmed s = _
  rw [execStartBitConfirmed, whenRunning_of_running running, if_pos quiet]

theorem exec_lineQuietSaturated {s : State} (running : s.held = false) (quiet : s.engine.isQuiet = true)
    (long : 65535 ≤ (s.clock - s.engine.quietSince).toNat) :
    exec .lineQuietSaturated s = .next (s.withEngine fun g => { g with quietSaturated := true }) := by
  have full : decide (Config.quietCapMs ≤ msSince s.clock s.engine.quietSince) = true := decide_eq_true long
  show execLineQuietSaturated s = _
  rw [execLineQuietSaturated, whenRunning_of_running running, quiet, full]
  rfl

/-- Settles O47: each row where it is an event, with everything it changes. -/
theorem framerAndQuietFollowTheLine : Obligations.FramerAndQuietFollowTheLine := by
  rintro s heard running rfl
  refine ⟨fun b chars lde free collecting length before => ?_, fun ch lde free skipping => ?_,
    fun lde free skipping noChar gap => ?_, fun held => exec_lrxIdleReturn running held, fun noChar free => ?_,
    fun noChar free long => exec_lineQuietSaturated running (s.engine.isQuiet_iff.2 ⟨noChar, free⟩) long⟩
  · have short : telegramLengthBad chars b = false := by
      simp only [telegramLengthBad, Bool.and_eq_false_imp, beq_iff_eq, decide_eq_false_iff_not]
      intro third
      have := length third
      omega
    rw [exec_telegramCharacter running (s.engine.framing_iff.2 ⟨lde, free⟩) collecting short
      (telegramCrcLowNext_eq_false before), State.hear_idle free]
    rfl
  · rw [exec_trailingCharacter ch running (s.engine.framing_iff.2 ⟨lde, free⟩) skipping]
    rfl
  · have quiet := s.engine.isQuiet_iff.2 ⟨noChar, free⟩
    rw [exec_framerGapReached running (s.engine.framing_iff.2 ⟨lde, free⟩) skipping
      (by rw [LineEngine.gapReached_of_quiet quiet]; exact decide_eq_true gap)]
    rfl
  · rw [exec_startBitConfirmed running (s.engine.isQuiet_iff.2 ⟨noChar, free⟩), State.withEngine]
    cases on : s.engine.exchange with
    | none => rfl
    | some x => cases phase : x.phase <;> simp only [Option.map_some, phase] <;> rfl

end Sys2Proof.Machine
end

section
/-!
SUPPORT. What the framer's events mean to the Line Engine: the start of a telegram by exchange state and role, and a
fault inside one.
-/

namespace Sys2Proof.Machine

/-! ### The start of a telegram (R82, R93, R100, R101, R123) -/

/-- R82, R200: a character is a CALL header by its form and its direction bit. -/
theorem isCallHeader_iff (ch : RxChar) : isCallHeader ch = true ↔ ch.stop = .idle ∧ ch.data.toNat < 128 := by
  rw [isCallHeader, headerIsReply_eq]
  simp

theorem isCallHeader_eq_false {ch : RxChar} (h : ch.stop ≠ .idle ∨ 128 ≤ ch.data.toNat) :
    isCallHeader ch = false := by
  rw [← Bool.not_eq_true, isCallHeader_iff]
  rintro ⟨idle, call⟩
  rcases h with bad | reply
  · exact bad idle
  · omega

/-- The state in which the start of a telegram is judged: the character heard, and the framer on its way. -/
def State.telegramBegun (ch : RxChar) (s : State) : State :=
  (s.hear ch.stop).setFramer (if ch.stop = .idle then .collecting [ch.data] else .skipping)

theorem exec_telegramStart {s : State} (ch : RxChar) (running : s.held = false) (framing : s.engine.framing = true)
    (ready : s.engine.framer = .ready) :
    exec (.telegramStart ch) s = .next ((s.telegramBegun ch).judgeStart ch) := by
  show execTelegramStart ch s = _
  rw [execTelegramStart, whenRunning_of_running running, framing, ready]
  rfl

/-- R101: in AWAIT a framing error completes the exchange. -/
theorem State.judgeStart_await_fault {s : State} {x : Exchange} {ch : RxChar} {since : Clock} {seen : Bool}
    (on : s.engine.exchange = some x) (await : x.phase = .await since seen) (bad : ch.stop ≠ .idle) :
    s.judgeStart ch = s.completeExchange (.garbled .framing) [] := by
  rw [State.judgeStart, on]
  dsimp only
  rw [await]
  exact if_pos bad

/-- R100: in AWAIT the header of a reply begins its reception. -/
theorem State.judgeStart_await_reply {s : State} {x : Exchange} {ch : RxChar} {since : Clock} {seen : Bool}
    (on : s.engine.exchange = some x) (await : x.phase = .await since seen) (good : ch.stop = .idle)
    (reply : 128 ≤ ch.data.toNat) :
    s.judgeStart ch = { s with engine := { s.engine with exchange := some { x with phase := .receiving } } } := by
  have isReply : headerIsReply ch.data = true := by rw [headerIsReply_eq]; exact decide_eq_true reply
  rw [State.judgeStart, on]
  dsimp only
  rw [await]
  dsimp only
  rw [if_neg (not_not_intro good), if_pos isReply, State.setPhase, State.withEngine, on]
  rfl

/-- R93: in GAP what is no CALL header is nothing to the exchange. -/
theorem State.judgeStart_gap {s : State} {x : Exchange} {ch : RxChar} (on : s.engine.exchange = some x)
    (gap : x.phase = .gap) (noCall : isCallHeader ch = false) : s.judgeStart ch = s := by
  rw [State.judgeStart, on]
  dsimp only
  rw [gap, noCall]
  rfl

/-- R123: with the Line Engine IDLE only a CALL header heard in MASTER is a contention. -/
theorem State.judgeStart_none {s : State} {ch : RxChar} (none : s.engine.exchange = none) :
    s.judgeStart ch = if isCallHeader ch = true ∧ s.engine.role = .master then s.idleContention else s := by
  rw [State.judgeStart, none]
  simp

/-- Settles O46: the framer follows the character, and `judgeStart` reads it by exchange state and role. -/
theorem telegramStartIsJudged : Obligations.TelegramStartIsJudged := by
  intro s ch heard running lde free ready hheard
  have begun : s.telegramBegun ch = { s with engine := heard } := by rw [hheard]; rfl
  have row : exec (.telegramStart ch) s = .next (State.judgeStart ch { s with engine := heard }) := by
    rw [exec_telegramStart ch running (s.engine.framing_iff.2 ⟨lde, free⟩) ready, begun]
  have exchange : heard.exchange = s.engine.exchange := by rw [hheard]
  have role : heard.role = s.engine.role := by rw [hheard]
  have counters : heard.counters = s.engine.counters := by rw [hheard]
  rw [row, ← exchange, ← role, ← counters]
  refine ⟨fun x since seen on await => ⟨fun good reply => ?_, fun bad => ?_⟩, fun x on gap other => ?_,
    fun idle other => ?_, fun idle master good call => ?_⟩
  · rw [State.judgeStart_await_reply on await good reply]
  · rw [State.judgeStart_await_fault on await bad]
    exact ⟨_, rfl, State.completeExchange_completesTo on _ _⟩
  · rw [State.judgeStart_gap on gap (isCallHeader_eq_false other)]
  · rw [State.judgeStart_none idle, if_neg]
    rintro ⟨isCall, master⟩
    obtain ⟨good, call⟩ := (isCallHeader_iff ch).1 isCall
    rcases other with notMaster | bad | reply
    · exact notMaster master
    · exact bad good
    · omega
  · rw [State.judgeStart_none idle, if_pos ⟨(isCallHeader_iff ch).2 ⟨good, call⟩, master⟩, State.idleContention,
      State.contention_eq _ (.inl ⟨master, rfl, rfl⟩), satInc_eq, master]
    rfl

/-! ### Faults inside a telegram (R81, R83, R101) -/

/-- R101: a fault of the framer completes the exchange that is RECEIVING. -/
theorem State.replyFault_receiving {s : State} {x : Exchange} (detail : GarbledDetail)
    (on : s.engine.exchange = some x) (receiving : x.phase = .receiving) :
    s.replyFault detail = s.completeExchange (.garbled detail) [] := by
  cases x with | mk record phase => subst receiving; rw [State.replyFault, on]

/-- R101: with no exchange RECEIVING it is a matter of the framer alone. -/
theorem State.replyFault_other {s : State} (detail : GarbledDetail)
    (other : ∀ x, s.engine.exchange = some x → x.phase ≠ .receiving) : s.replyFault detail = s := by
  unfold State.replyFault
  split
  · next record on => exact absurd rfl (other _ on)
  · rfl

theorem exec_telegramFault {s : State} {ch : RxChar} {chars : List Byte} (running : s.held = false)
    (framing : s.engine.framing = true) (collecting : s.engine.framer = .collecting chars)
    (fault : (ch.stop != .idle || telegramLengthBad chars ch.data) = true) :
    exec (.telegramFault ch) s =
      .next (((s.hear ch.stop).setFramer .skipping).replyFault (if ch.stop ≠ .idle then .framing else .badLength)) := by
  show execTelegramFault ch s = _
  rw [execTelegramFault, whenRunning_of_running running, collecting]
  dsimp only
  rw [framing, fault]
  rfl

theorem exec_telegramPauseTimeout {s : State} {chars : List Byte} (running : s.held = false)
    (framing : s.engine.framing = true) (collecting : s.engine.framer = .collecting chars)
    (long : s.engine.pauseExceeded = true) :
    exec .telegramPauseTimeout s =
      .next ((s.setFramer (if s.engine.gapReached then .ready else .skipping)).replyFault .broken) := by
  show execTelegramPauseTimeout s = _
  rw [execTelegramPauseTimeout, whenRunning_of_running running, collecting]
  dsimp only
  rw [framing, long]
  rfl

/-- Settles O48: each fault is the framer's change followed by `replyFault`, which an exchange that is RECEIVING
completes with. -/
theorem telegramFaultsGarbleTheReply : Obligations.TelegramFaultsGarbleTheReply := by
  intro s base c chars detail running lde free collecting fault
  have framing := s.engine.framing_iff.2 ⟨lde, free⟩
  have row : exec c s = .next (base.replyFault detail) ∧ base.engine.exchange = s.engine.exchange := by
    rcases fault with ⟨ch, rfl, kind, rfl⟩ | ⟨rfl, noChar, long, rfl, rfl⟩
    · refine ⟨?_, rfl⟩
      rcases kind with ⟨bad, rfl⟩ | ⟨good, third, long, rfl⟩
      · rw [exec_telegramFault running framing collecting (by simp [bad]), if_pos bad]
        rfl
      · rw [exec_telegramFault running framing collecting (by simp [telegramLengthBad, third, long]),
          if_neg (not_not_intro good)]
        rfl
    · have quiet := s.engine.isQuiet_iff.2 ⟨noChar, free⟩
      refine ⟨?_, rfl⟩
      rw [exec_telegramPauseTimeout running framing collecting
        (by rw [LineEngine.pauseExceeded_of_quiet quiet]; exact decide_eq_true long),
        LineEngine.gapReached_of_quiet quiet]
      simp only [decide_eq_true_eq]
      rfl
  obtain ⟨row, exchange⟩ := row
  rw [row, ← exchange]
  refine ⟨fun x on receiving => ?_, fun other => ?_⟩
  · rw [State.replyFault_receiving detail on receiving]
    exact ⟨_, rfl, State.completeExchange_completesTo on _ _⟩
  · rw [State.replyFault_other detail other]

end Sys2Proof.Machine
end

section
/-!
SUPPORT. The call on the line: its start after the gap, its characters in time, its bytes and the CRC that closes it.
-/

namespace Sys2Proof.Machine

/-! ### The start of a call and its characters in time (R92, R94, R95) -/

theorem exec_sendStart {s : State} {x : Exchange} (running : s.held = false) (on : s.engine.exchange = some x)
    (gap : x.phase = .gap) :
    exec .sendStart s =
      .next (if s.engine.maySend then
        { s with engine := { s.engine with exchange := some { x with phase := .sending 0 0 0 }, lde := true } }
      else s) := by
  show execSendStart s = _
  rw [execSendStart, whenRunning_of_running running, State.withEngine, LineEngine.tryStart, on]
  dsimp only
  rw [gap]
  dsimp only
  split <;> rfl

theorem exec_callCharacterSent {s : State} {x : Exchange} {elapsed ended paired : Nat} (running : s.held = false)
    (on : s.engine.exchange = some x) (sending : x.phase = .sending elapsed ended paired)
    (short : ended < x.record.call.length) :
    exec .callCharacterSent s =
      .next (if 160000000 * (ended + 1) ≤ elapsed * s.engine.params.rate.bps then
        { s with
          engine := { s.engine with exchange := some { x with phase := .sending elapsed (ended + 1) paired } } }
      else s) := by
  obtain ⟨record, phase⟩ := x
  subst sending
  show execCallCharacterSent s = _
  rw [execCallCharacterSent, whenRunning_of_running running, on]
  dsimp only
  rw [charTimesRun_eq, State.setPhase, State.withEngine, on]
  simp only [short, true_and, decide_eq_true_eq]
  rfl

/-! ### The bytes of a call (R76, R200) -/

/-- R200: kind k and toggle t of a header stand in it as 16 k + t. -/
theorem callHeader_eq {k : CallKind} {kind : Nat}
    (h : k = .poll ∧ kind = 1 ∨ k = .put ∧ kind = 2 ∨ k = .get ∧ kind = 3 ∨ k = .hail ∧ kind = 4 ∨
      k = .bcast ∧ kind = 5) (toggle : Bool) :
    callHeader k toggle = BitVec.ofNat 8 (16 * kind + if toggle = true then 1 else 0) := by
  rcases h with ⟨rfl, rfl⟩ | ⟨rfl, rfl⟩ | ⟨rfl, rfl⟩ | ⟨rfl, rfl⟩ | ⟨rfl, rfl⟩ <;> cases toggle <;> rfl

/-- R200: the toggle is 1 where the record holds it set; without one it is sent as 0. -/
theorem ExchangeRecord.toggle_iff (r : ExchangeRecord) : r.toggleSent.getD false = true ↔ r.toggleSent = some true := by
  cases r.toggleSent <;> simp

/-! ### The CRC (R80) -/

/-- R80: one byte is added into the upper half, and eight shifts follow. -/
theorem crcByte_eq_iterate (r : Half) (b : Byte) : crcByte r b = crcShift^[8] (r ^^^ (b ++ 0#8)) := by
  rw [half_append, crcByte_eq]
  simp [crcShift8]

/-- Settles O37: the call starts by `maySend_iff`, its characters run by the cycles since LDE, and its header, address
and CRC are those of the rules. -/
theorem callStartsAfterTheGap : Obligations.CallStartsAfterTheGap := by
  intro s x mayStart running on hmay
  rw [← LineEngine.maySend_iff] at hmay
  refine ⟨fun gap may => ?_, fun gap mayNot => ?_,
    fun elapsed ended paired sending short => ⟨fun run => ?_, fun early => ?_⟩,
    fun r kind toggle covered hkind htoggle hcovered => ?_, fun shift hshift => ⟨rfl, fun bytes b => ?_⟩⟩
  · rw [exec_sendStart running on gap, if_pos (hmay.1 may)]
  · rw [exec_sendStart running on gap, if_neg fun may => mayNot (hmay.2 may)]
  · rw [exec_callCharacterSent running on sending short, if_pos run]
  · rw [exec_callCharacterSent running on sending short, if_neg (Nat.not_le.2 early)]
  · have header : callHeader r.kind (r.toggleSent.getD false) = BitVec.ofNat 8 (16 * kind + toggle) := by
      rw [callHeader_eq hkind, htoggle]
      simp only [r.toggle_iff]
    have bytes : covered = callHeader r.kind (r.toggleSent.getD false) :: destByte r.station ::
        natByte r.payload.length :: r.payload := by
      rw [hcovered, header]
      cases r.station <;> rfl
    rw [ExchangeRecord.call, ← bytes]
  · have same : shift = crcShift := funext fun r => hshift r
    rw [crc16_append, crcByte_eq_iterate, same]

end Sys2Proof.Machine
end

section
/-!
SUPPORT. Undone commitments case by case (R36, R39, R44, R69, R108, R109), and the LINE_STOP in GAP that undoes one.
-/

namespace Sys2Proof.Machine

/-! ### The anchor of an undone call (R69) -/

/-- R69: the state of the entry still calls for the poll, recovery poll or probe with this anchor. -/
def Station.stillCalls (e : Station) (origin : Origin) (anchor : DueTime) : Prop :=
  origin = .poll anchor ∧ e.state = .online ∧ 1 ≤ e.level ∨
    origin = .recoveryPoll anchor ∧ e.state = .suspect ∨
    origin = .probe anchor ∧ (e.state = .probing ∨ e.state = .lost)

/-- R14, R69: the poll, recovery poll or probe with this anchor is an orphan, or the state of the entry no longer calls
for it. -/
def Station.callsNoMore (e : Station) (record : ExchangeRecord) (anchor : DueTime) : Prop :=
  record.origin = .poll anchor ∧ (record.orphaned = true ∨ e.state ≠ .online ∨ e.level = 0) ∨
    record.origin = .recoveryPoll anchor ∧ (record.orphaned = true ∨ e.state ≠ .suspect) ∨
    record.origin = .probe anchor ∧ (record.orphaned = true ∨ e.state ≠ .probing ∧ e.state ≠ .lost)

/-- R91: an origin with an anchor. -/
def Origin.isDue (origin : Origin) (anchor : DueTime) : Prop :=
  origin = .poll anchor ∨ origin = .recoveryPoll anchor ∨ origin = .probe anchor

theorem Origin.isDue.served {origin : Origin} {anchor : DueTime} (due : origin.isDue anchor) :
    origin ≠ .fallback := by
  rcases due with rfl | rfl | rfl <;> exact Origin.noConfusion

theorem Station.stillCalls.isDue {e : Station} {origin : Origin} {anchor : DueTime}
    (calls : e.stillCalls origin anchor) : origin.isDue anchor :=
  calls.imp And.left (Or.imp And.left And.left)

theorem Station.callsNoMore.isDue {e : Station} {record : ExchangeRecord} {anchor : DueTime}
    (gone : e.callsNoMore record anchor) : record.origin.isDue anchor :=
  gone.imp And.left (Or.imp And.left And.left)

theorem Station.restoreAnchor_of_stillCalls {e : Station} {origin : Origin} {anchor : DueTime}
    (calls : e.stillCalls origin anchor) : e.restoreAnchor origin = { e with nextDue := some anchor } := by
  rcases calls with ⟨rfl, online, level⟩ | ⟨rfl, suspect⟩ | ⟨rfl, probing | lost⟩
  · simp only [Station.restoreAnchor, online, if_pos level]
  · simp only [Station.restoreAnchor, suspect]
  · simp only [Station.restoreAnchor, probing]
  · simp only [Station.restoreAnchor, lost]

theorem Station.restoreAnchor_of_callsNoMore {e : Station} {record : ExchangeRecord} {anchor : DueTime}
    (gone : e.callsNoMore record anchor) (live : record.orphaned = false) : e.restoreAnchor record.origin = e := by
  simp only [Station.callsNoMore, live, Bool.false_eq_true, false_or] at gone
  rcases gone with ⟨poll, other⟩ | ⟨recovery, other⟩ | ⟨probe, notProbing, notLost⟩
  · rw [poll]
    cases state : e.state with
    | online =>
      have unpolled : e.level = 0 := other.resolve_left (not_not_intro state)
      simp [Station.restoreAnchor, state, unpolled]
    | _ => simp only [Station.restoreAnchor, state]
  · rw [recovery]
    cases state : e.state with
    | suspect => exact absurd state other
    | _ => simp only [Station.restoreAnchor, state]
  · rw [probe]
    cases state : e.state with
    | probing => exact absurd state notProbing
    | lost => exact absurd state notLost
    | _ => simp only [Station.restoreAnchor, state]

/-! ### The commitment undone (R108, R109) -/

section Undone

variable {s : State} {record : ExchangeRecord} {a : Addr} {anchor : DueTime}

/-- The state with the Line Engine IDLE, which an undone commitment starts from. -/
def State.ceased (s : State) : State := s.withEngine fun e => { e with exchange := none }

theorem State.undoCommitment_of_due (collision : Option ExOutcome) (due : record.origin.isDue anchor) :
    s.undoCommitment record collision = s.ceased.undoDue record := by
  rcases due with origin | origin | origin <;>
  · rw [State.undoCommitment, origin]
    rfl

/-- R69: the anchor goes back where the station's state still calls for the call. -/
theorem State.undoCommitment_restores (collision : Option ExOutcome) (names : record.station = some a)
    (live : record.orphaned = false) (calls : (s.station a).stillCalls record.origin anchor) :
    s.undoCommitment record collision = s.ceased.setStation a { s.station a with nextDue := some anchor } := by
  rw [State.undoCommitment_of_due collision calls.isDue, State.undoDue, names]
  dsimp only
  rw [live, if_neg Bool.false_ne_true, State.withStation, ← Station.restoreAnchor_of_stillCalls calls]
  rfl

/-- R14, R69: otherwise the call is discarded. -/
theorem State.undoCommitment_discards (collision : Option ExOutcome) (names : record.station = some a)
    (gone : (s.station a).callsNoMore record anchor) : s.undoCommitment record collision = s.ceased := by
  rw [State.undoCommitment_of_due collision gone.isDue, State.undoDue, names]
  dsimp only
  cases live : record.orphaned with
  | true => rfl
  | false =>
    have kept : (s.ceased.station a).restoreAnchor record.origin = s.ceased.station a :=
      Station.restoreAnchor_of_callsNoMore gone live
    rw [if_neg Bool.false_ne_true, State.withStation, kept, State.setStation_self]

/-- R108, R109: the fallback broadcast leaves nothing behind. -/
theorem State.undoCommitment_broadcast (collision : Option ExOutcome) (origin : record.origin = .fallback) :
    s.undoCommitment record collision = s.ceased := by
  rw [State.undoCommitment, origin]
  rfl

variable {r : Request}

theorem State.undoCommitment_request (collision : Option ExOutcome) (origin : record.origin = .request r.tag) :
    s.undoCommitment record collision =
      (s.ceased.undoRequest r.tag record.orphaned collision).cascadeUndone record := by
  rw [State.undoCommitment, origin]
  rfl

/-- R39: a request within its deadline returns to WAITING. -/
theorem State.undoCommitment_waits (collision : Option ExOutcome) (origin : record.origin = .request r.tag)
    (found : s.findRequest r.tag = some r) (names : record.station = r.station) (live : record.orphaned = false)
    (alive : r.deadlinePassed s.clock = false) (kept : ∀ a, r.station = some a → (s.station a).state ≠ .lost) :
    s.undoCommitment record collision =
      s.ceased.updateRequest r.tag fun q =>
        { q with lastOutcome := collision.or q.lastOutcome, state := .waiting } := by
  rw [State.undoCommitment_request collision origin, live,
    State.undoRequest_waiting (s := s.ceased) found collision alive]
  exact State.cascadeUndone_of_not_lost fun a named => kept a (names.symm.trans named)

/-- R39, R44, R36 (log 24): the result an undone request that does not wait again completes with. -/
def Request.undoneResult (s : State) (record : ExchangeRecord) (r : Request) (result : RequestResult) : Prop :=
  record.orphaned = true ∧ result = .cancelled ∨
    record.orphaned = false ∧ r.deadlinePassed s.clock = true ∧ result = .expired ∨
    record.orphaned = false ∧ r.deadlinePassed s.clock = false ∧ result = .stationLost ∧
      ∃ a, r.station = some a ∧ (s.station a).state = .lost

/-- R47: where no request waits for the station, none is removed. -/
theorem State.removeWaiting_of_none (result : RequestResult) (none : ∀ q ∈ s.requests, q.waitsFor a = false) :
    s.removeWaiting a result = s := by
  have empty : s.requests.filter (Request.waitsFor a) = [] := by
    rw [List.filter_eq_nil_iff]
    exact fun q mem => by rw [none q mem]; exact Bool.false_ne_true
  rw [State.removeWaiting, empty]
  rfl

/-- R36: a request that completed as undone leaves no other waiting for its station, so nothing follows it. -/
theorem State.cascadeUndone_undoneWith {collision : Option ExOutcome} {result : RequestResult}
    (names : record.station = r.station)
    (alone : ∀ a, r.station = some a → (s.station a).state = .lost → ∀ q ∈ s.requests, q.tag ≠ r.tag →
      q.state = .waiting → q.station ≠ some a) :
    (s.undoneWith r collision result).cascadeUndone record = s.undoneWith r collision result := by
  unfold State.cascadeUndone
  split
  · rfl
  · next a named =>
    split
    · next lost =>
      have isLost : (s.station a).state = .lost := beq_iff_eq.1 (Bool.and_eq_true_iff.1 lost).2
      refine State.removeWaiting_of_none _ fun q mem => ?_
      obtain ⟨p, hp, rfl⟩ := List.mem_map.1 mem
      by_cases same : p.tag = r.tag
      · simp [same, Request.waitsFor]
      · have elsewhere := alone a (names.symm.trans named) isLost p hp same
        simpa [same, Request.waitsFor] using elsewhere
    · rfl

/-- R39, R44, R36 (log 24): a request past its deadline, an orphan, and the request of a LOST station complete. -/
theorem State.undoCommitment_completes (collision : Option ExOutcome) {result : RequestResult}
    (origin : record.origin = .request r.tag) (found : s.findRequest r.tag = some r)
    (names : record.station = r.station) (nodup : (s.requests.map fun q => q.tag).Nodup)
    (alone : ∀ a, r.station = some a → (s.station a).state = .lost → ∀ q ∈ s.requests, q.tag ≠ r.tag →
      q.state = .waiting → q.station ≠ some a)
    (final : r.undoneResult s record result) :
    s.undoCommitment record collision = s.ceased.undoneWith r collision result := by
  rw [State.undoCommitment_request collision origin]
  have settled : (record.orphaned = true ∧ result = .cancelled ∨
      record.orphaned = false ∧ r.deadlinePassed s.ceased.clock = true ∧ result = .expired) →
      (s.ceased.undoRequest r.tag record.orphaned collision).cascadeUndone record =
        s.ceased.undoneWith r collision result := fun h => by
    rw [State.undoRequest_final (s := s.ceased) found collision h]
    exact State.cascadeUndone_undoneWith names alone
  rcases final with cancelled | expired | ⟨live, alive, rfl, a, station, lost⟩
  · exact settled (.inl cancelled)
  · exact settled (.inr expired)
  · rw [live]
    exact State.undoRequest_lost (s := s.ceased) found collision nodup alive live (names.trans station) station lost
      (alone a station lost)

end Undone

/-! ### LINE_STOP in GAP (R109, R118) -/

/-- R109, R118: LINE_STOP in GAP undoes the commitment and leaves MASTER for OFF. -/
theorem exec_lineStop_gap {s₀ s : State} {x : Exchange} {seq : Byte} (takes : s₀.takes seq s)
    (master : s.engine.role = .master) (on : s.engine.exchange = some x) (gap : x.phase = .gap) :
    exec (.lineStop seq []) s₀ =
      .next
        (((s.undoCommitment x.record none).leaveMaster .off .none).respond ⟨seq, [0x22#8, 0x00#8, 0x00#8]⟩) := by
  have stopped : s.stopMaster = (s.undoCommitment x.record none).leaveMaster .off .none := by
    rw [State.stopMaster, on]
    dsimp only
    rw [gap]
  have answer : s.lineStop [] = (accept s.stopMaster).withRole := by
    rw [State.lineStop, bare, master]
  refine (exec_row_eq .lineStop seq [] takes).trans ?_
  rw [show s.perform .lineStop [] = s.lineStop [] from rfl, answer, stopped]
  rfl

/-- Settles O14: the commitment undone case by case, then the role OFF. -/
theorem lineStopInGapUndoesTheCommitment : Obligations.LineStopInGapUndoesTheCommitment := by
  intro s₀ s off x seq takes master on gap hoff
  rw [exec_lineStop_gap takes master on gap, hoff]
  refine ⟨fun fallback => ?_, fun a anchor names live calls => ?_, fun a anchor names gone => ?_,
    fun r origin found names nodup alone => ⟨fun live alive kept => ?_, fun result final => ?_⟩⟩
  · rw [State.undoCommitment_broadcast none fallback]
    rfl
  · rw [State.undoCommitment_restores none names live calls]
    rfl
  · rw [State.undoCommitment_discards none names gone]
    rfl
  · rw [State.undoCommitment_waits none origin found names live alive kept]
    rfl
  · rw [State.undoCommitment_completes none origin found names nodup alone final]
    rfl

end Sys2Proof.Machine
end

section
/-!
SUPPORT. The echo of a call (R96 to R98), and the collisions that end an exchange (R93, R97, R100, R105, R108, R124,
R125, R191).
-/

namespace Sys2Proof.Machine

/-! ### The echo (R96, R98) -/

/-- R96: a good echo is in form, pairs the next character, which has ended or is on LTX (log 6), and is in time. -/
theorem echoGood_iff {rate : LineRate} {call : List Byte} {elapsed ended paired : Nat} {ch : RxChar} :
    echoGood rate call elapsed ended paired ch = true ↔
      ch.stop = .idle ∧ call[paired]? = some ch.data ∧ paired ≤ ended ∧
        elapsed * rate.bps ≤ 160000000 * (paired + 3) := by
  have inTime : echoLate elapsed rate paired = false ↔ elapsed * rate.bps ≤ 160000000 * (paired + 3) := by
    rw [echoLate, charTimesExceeded_eq, decide_eq_false_iff_not, Nat.not_lt]
    rfl
  simp only [echoGood, Bool.and_eq_true, Bool.not_eq_true', beq_iff_eq, decide_eq_true_eq, inTime]
  constructor
  · rintro ⟨⟨⟨idle, next⟩, pairs⟩, early⟩
    exact ⟨idle, pairs, by omega, early⟩
  · rintro ⟨idle, pairs, next, early⟩
    obtain ⟨inside, -⟩ := List.getElem?_eq_some_iff.1 pairs
    exact ⟨⟨⟨idle, by omega⟩, pairs⟩, early⟩

section Rows

variable {s : State} {x : Exchange} {elapsed ended paired : Nat}

theorem exec_echoReceived (ch : RxChar) (running : s.held = false) (on : s.engine.exchange = some x)
    (sending : x.phase = .sending elapsed ended paired) (free : s.engine.lrxHeld = false) :
    exec (.echoReceived ch) s =
      .next (if echoGood s.engine.params.rate x.record.call elapsed ended paired ch then
        (if paired + 1 = x.record.call.length then (s.hear ch.stop).callSent x.record.kind
          else (s.hear ch.stop).setPhase (.sending elapsed ended (paired + 1)))
      else (s.hear ch.stop).collide .echo) := by
  obtain ⟨record, phase⟩ := x
  subst sending
  show execEchoReceived ch s = _
  rw [execEchoReceived, whenRunning_of_running running, on]
  dsimp only
  rw [free, if_neg Bool.false_ne_true]

/-- R96, R97: no echo of a character sent within 2 character times of its end. -/
theorem exec_echoTimeout (running : s.held = false) (on : s.engine.exchange = some x)
    (sending : x.phase = .sending elapsed ended paired) (unpaired : paired < ended)
    (late : 160000000 * (paired + 3) ≤ elapsed * s.engine.params.rate.bps) :
    exec .echoTimeout s = .next (s.collide .echo) := by
  obtain ⟨record, phase⟩ := x
  subst sending
  show execEchoTimeout s = _
  rw [execEchoTimeout, whenRunning_of_running running, on]
  dsimp only
  rw [charTimesRun_eq, if_pos ⟨unpaired, decide_eq_true late⟩]

theorem State.setPhase_eq (on : s.engine.exchange = some x) (phase : Phase) :
    s.setPhase phase = { s with engine := { s.engine with exchange := some { x with phase := phase } } } := by
  rw [State.setPhase, State.withEngine, on, Option.map_some]

/-- R98: the call has been sent. -/
theorem State.callSent_eq (on : s.engine.exchange = some x) (kind : CallKind) :
    s.callSent kind =
      { s with
        engine :=
          { s.engine with
            exchange := some { x with phase := if kind = .bcast then .settle else .await s.clock false }
            lde := false
            framer := .ready
            counters := { s.engine.counters with callsSent := satInc s.engine.counters.callsSent } } } := by
  simp only [State.callSent, State.setPhase, State.withEngine, on, Option.map_some]

end Rows

/-- Settles O38: the echo is good, so it pairs the next character or ends the call. -/
theorem goodEchoesEndTheCall : Obligations.GoodEchoesEndTheCall := by
  intro s x b elapsed ended paired heard running on sending free pairs next early hheard
  have good : echoGood s.engine.params.rate x.record.call elapsed ended paired ⟨b, .idle⟩ = true :=
    echoGood_iff.2 ⟨rfl, pairs, next, early⟩
  have left : s.hear .idle = { s with engine := heard } := by rw [State.hear_idle free, hheard]
  have on' : heard.exchange = some x := by rw [hheard]; exact on
  rw [exec_echoReceived _ running on sending free, if_pos good, left]
  refine ⟨fun more => ?_, fun last => ?_⟩
  · rw [if_neg (Nat.ne_of_lt more), State.setPhase_eq (s := { s with engine := heard }) on']
  · rw [if_pos last, State.callSent_eq (s := { s with engine := heard }) on', satInc_eq, hheard]

/-! ### Collisions (R93, R97, R100, R105, R108, R124, R125, R191) -/

section Collisions

variable {s : State} {x : Exchange}

/-- R96, R97: a wrong echo, one of no character sent, and a late one are a collision. -/
theorem exec_echoFault {ch : RxChar} {elapsed ended paired : Nat} (running : s.held = false)
    (on : s.engine.exchange = some x) (sending : x.phase = .sending elapsed ended paired)
    (free : s.engine.lrxHeld = false)
    (bad : ch.stop ≠ .idle ∨ x.record.call[paired]? ≠ some ch.data ∨ ended < paired ∨
      160000000 * (paired + 3) < elapsed * s.engine.params.rate.bps) :
    exec (.echoReceived ch) s = .next ((s.hear ch.stop).collide .echo) := by
  rw [exec_echoReceived ch running on sending free, if_neg]
  rw [echoGood_iff]
  rintro ⟨idle, pairs, next, early⟩
  rcases bad with form | wrong | unsent | late
  · exact form idle
  · exact wrong pairs
  · omega
  · omega

/-- R93, R100, R105: a foreign call heard in GAP, AWAIT or SETTLE is a collision. -/
theorem exec_foreignCall {ch : RxChar} (running : s.held = false) (on : s.engine.exchange = some x)
    (framing : s.engine.framing = true) (ready : s.engine.framer = .ready)
    (foreign : x.phase = .settle ∨
      (x.phase = .gap ∨ ∃ since seen, x.phase = .await since seen) ∧ ch.stop = .idle ∧ ch.data.toNat < 128) :
    exec (.telegramStart ch) s = .next ((s.telegramBegun ch).collide .foreignCall) := by
  have on' : (s.telegramBegun ch).engine.exchange = some x := on
  rw [exec_telegramStart ch running framing ready, State.judgeStart, on']
  dsimp only
  rcases foreign with settle | ⟨gap | ⟨since, seen, await⟩, idle, call⟩
  · rw [settle]
  · rw [gap]
    dsimp only
    rw [if_pos ((isCallHeader_iff ch).2 ⟨idle, call⟩)]
  · have noReply : headerIsReply ch.data = false := by
      rw [headerIsReply_eq, decide_eq_false_iff_not]
      omega
    rw [await]
    dsimp only
    rw [if_neg (not_not_intro idle), noReply, if_neg Bool.false_ne_true]

/-- R124: with LDE asserted the call's last echo was still to come; with LDE released nothing is dropped. -/
theorem LineEngine.dropLine_of_asserted {g : LineEngine} (lde : g.lde = true) :
    g.dropLine = { g with lde := false, framer := .skipping } :=
  if_pos lde

theorem LineEngine.dropLine_of_released {g : LineEngine} (lde : g.lde = false) :
    g.dropLine = { g with lde := false } := by
  rw [LineEngine.dropLine, lde, if_neg Bool.false_ne_true, ← lde]

/-- R108, R124, R125: a collision drops the line, undoes the commitment, counts the contention and leaves the role. -/
theorem State.collide_eq {toRole : LineRole} {reason : LineReason} (on : s.engine.exchange = some x)
    (served : x.record.origin ≠ .fallback) (detail : CollisionDetail)
    (roles : s.engine.role = .master ∧ toRole = .yielded ∧ reason = .contention ∨
      s.engine.role = .stopping ∧ toRole = .off ∧ reason = .stopped) :
    s.collide detail =
      State.putReport (.line s.engine.role toRole reason detail.toLine 0)
        { (s.withEngine LineEngine.dropLine).undoCommitment x.record (some (.collision detail)) with
          engine :=
            { s.engine.dropLine with
              role := toRole
              exchange := none
              counters := { s.engine.counters with contentions := satInc s.engine.counters.contentions } }
          fallback := { s.fallback with timer := none, pending := false, phase := .none } } := by
  rw [State.collide, on]
  dsimp only
  rw [if_neg served, State.contention_eq detail (by simpa using roles)]
  simp

/-- R191: the fallback broadcast ends DISTURBED. -/
theorem State.collide_fallback (on : s.engine.exchange = some x) (fallback : x.record.origin = .fallback)
    (detail : CollisionDetail) :
    s.collide detail =
      State.putReport (.line s.engine.role .off .fallback .disturbed 0)
        { s with
          engine :=
            { s.engine.dropLine with
              role := .off
              exchange := none
              counters := { s.engine.counters with contentions := satInc s.engine.counters.contentions } }
          fallback := { s.fallback with timer := none, pending := false, phase := .none } } := by
  rw [State.collide, on]
  dsimp only
  rw [if_pos fallback, State.undoCommitment_broadcast _ fallback, State.endFallback_eq]
  simp only [State.countContention, State.withLineCounters_eq, State.ceased, State.withEngine, LineEngine.dropLine_role,
    LineEngine.dropLine_counters]

end Collisions

/-- Settles O39: the fault or foreign call collides, and the commitment is undone case by case. -/
theorem contentionEndsTheExchange : Obligations.ContentionEndsTheExchange := by
  intro s base c x detail heard toRole reason lineDetail running on fault roles hbase
  have collided : ∃ e : LineEngine, exec c s = .next (State.collide detail { s with engine := e }) ∧
      e.dropLine = { heard with lde := false } ∧ e.exchange = some x ∧ e.role = s.engine.role ∧
      e.counters = s.engine.counters ∧ detail.toLine = lineDetail := by
    rcases fault with ⟨elapsed, ended, paired, sending, lde, rfl, rfl,
      ⟨rfl, unpaired, late, rfl⟩ | ⟨ch, rfl, free, bad, rfl⟩⟩ | ⟨ch, rfl, lde, free, ready, rfl, rfl, foreign, rfl⟩
    · exact ⟨s.engine, exec_echoTimeout running on sending unpaired late, LineEngine.dropLine_of_asserted lde, on, rfl,
        rfl, rfl⟩
    · exact ⟨s.engine.hear s.clock ch.stop, exec_echoFault running on sending free bad,
        LineEngine.dropLine_of_asserted lde, on, rfl, rfl, rfl⟩
    · exact ⟨(s.telegramBegun ch).engine,
        exec_foreignCall running on (s.engine.framing_iff.2 ⟨lde, free⟩) ready foreign,
        LineEngine.dropLine_of_released lde, on, rfl, rfl, rfl⟩
  obtain ⟨e, row, dropped, on', role, counters, rfl⟩ := collided
  have ended : ∀ t : State, x.record.origin ≠ .fallback →
      State.undoCommitment x.record (some (.collision detail)) { s with engine := { heard with lde := false } } = t →
      exec c s =
        .next (State.putReport (.line s.engine.role toRole reason detail.toLine 0)
          { t with engine := base.engine, fallback := base.fallback }) := by
    rintro t served rfl
    rw [row, State.collide_eq (s := { s with engine := e }) on' served detail (role ▸ roles), State.withEngine, hbase]
    dsimp only
    rw [dropped, role, counters, satInc_eq]
  refine ⟨fun a anchor names live calls => ?_, fun a anchor names gone => ?_,
    fun r origin found names nodup alone => ⟨fun live alive kept => ?_, fun result final => ?_⟩, fun fallback => ?_⟩
  · rw [ended _ (Station.stillCalls.isDue calls).served (State.undoCommitment_restores _ names live calls), hbase]
    rfl
  · rw [ended _ (Station.callsNoMore.isDue gone).served (State.undoCommitment_discards _ names gone), hbase]
    rfl
  · rw [ended _ (by simp [origin]) (State.undoCommitment_waits _ origin found names live alive kept), hbase]
    rfl
  · rw [ended _ (by simp [origin]) (State.undoCommitment_completes _ origin found names nodup alone final), hbase]
    rfl
  · rw [row, State.collide_fallback (s := { s with engine := e }) on' fallback, hbase]
    dsimp only
    rw [dropped, role, counters, satInc_eq]

end Sys2Proof.Machine
end

section
/-!
SUPPORT. The exchanges no reply ends: the reply timeout (R99) with the misses it brings, and the BCAST that has settled
(R105).
-/

namespace Sys2Proof.Machine

section Ends

variable {s : State} {x : Exchange} {d : Delivery} {a : Addr}

/-! ### The rows (R99, R105) -/

theorem exec_replyTimeout {since : Clock} {seen : Bool} (running : s.held = false) (on : s.engine.exchange = some x)
    (await : x.phase = .await since seen) :
    exec .replyTimeout s =
      .next (if seen = false ∧ s.engine.params.replyTimeout ≤ (s.clock - since).toNat then
        s.completeExchange .noReply [] else s) := by
  obtain ⟨record, phase⟩ := x
  subst await
  show execReplyTimeout s = _
  rw [execReplyTimeout, whenRunning_of_running running, on]
  simp only [Bool.and_eq_true, Bool.not_eq_true', decide_eq_true_eq]
  rfl

theorem exec_broadcastSettled (running : s.held = false) (on : s.engine.exchange = some x)
    (settle : x.phase = .settle) (gap : s.engine.gapReached = true) :
    exec .broadcastSettled s = .next (s.completeExchange .sent []) := by
  obtain ⟨record, phase⟩ := x
  subst settle
  show execBroadcastSettled s = _
  rw [execBroadcastSettled, whenRunning_of_running running, on]
  dsimp only
  rw [if_pos gap]

/-! ### The Call Queue's part (R14, R40 to R44, R107) -/

/-- R107: a poll, recovery poll or probe concerns no request. -/
theorem State.queueDecides_of_due {anchor : DueTime} (due : d.record.origin.isDue anchor) : s.queueDecides d = s := by
  rcases due with origin | origin | origin <;> rw [State.queueDecides, origin]

theorem State.queueDecides_of_request {tag : Half} (origin : d.record.origin = .request tag) :
    s.queueDecides d = s.decideRequest tag d := by
  rw [State.queueDecides, origin]

/-- R39, R42: a request without a final result returns to WAITING with its attempt counted. -/
theorem State.decideRequest_waits {r : Request} (found : s.findRequest r.tag = some r)
    (fate : (r.attempted d.outcome).fate s.clock d.record.orphaned d.outcome = none) :
    s.decideRequest r.tag d = s.updateRequest r.tag fun q => { q.attempted d.outcome with state := .waiting } := by
  rw [State.decideRequest_eq d found, fate]

/-- R40, R49, R50: a request with a final result, and no data for it. -/
theorem State.decideRequest_completes {r : Request} {result : RequestResult} (found : s.findRequest r.tag = some r)
    (empty : d.data = []) (fate : (r.attempted d.outcome).fate s.clock d.record.orphaned d.outcome = some result) :
    s.decideRequest r.tag d =
      { s with
        requests := s.requests.map fun q =>
          if q.tag = r.tag then { q.attempted d.outcome with state := .reported } else q
        reports :=
          { s.reports with
            queue := s.reports.queue ++
              [⟨.result r.tag r.kind result (r.attempts + 1) (some d.outcome) [], .unsent⟩]
            attn := true } } := by
  have noData : (if result = .done then r.resultData d.data else []) = [] := by
    rw [Request.resultData, empty, ite_self, ite_self]
  rw [State.decideRequest_eq d found, fate]
  dsimp only
  rw [noData]
  exact State.completeRequest_attempted found _ _ _

/-! ### The Station Table's part (R18, R20, R21, R23) -/

/-- R18, R20, R21: a miss below the miss limit leaves the station SUSPECT with a recovery poll due at once. -/
theorem State.applyOutcome_missBelow {misses : Nat} (notHail : d.record.kind ≠ .hail) (miss : d.outcome.isMiss = true)
    (state : (s.station a).state = .online ∧ misses = 1 ∨
      (s.station a).state = .suspect ∧ misses = (s.station a).missCount + 1)
    (below : misses < (s.station a).missLimit) :
    s.applyOutcome a d =
      s.setStation a
        { s.station a with
          state := .suspect
          missCount := misses
          nextDue := some (DueTime.atOnce s.clock)
          missedExchanges := satInc (s.station a).missedExchanges
          lastFault := some ⟨d.outcome, d.record.kind, s.clock⟩ } := by
  have counted : (s.station a).countMiss = misses := by
    rcases state with ⟨online, rfl⟩ | ⟨suspect, rfl⟩
    · exact Station.countMiss_online online
    · exact Station.countMiss_suspect suspect
  have missCount : ((s.station a).count s.clock d).countMiss = misses := by
    rw [Station.countMiss, Station.count_state, Station.count_missCount, ← counted, Station.countMiss]
  rw [State.applyOutcome_miss (state.imp And.left And.left) notHail miss, State.missed_of_lt,
    State.setStation_setStation, State.station_setStation_self, missCount, Station.count_miss notHail miss]
  · rfl
  · rw [State.station_setStation_self, missCount, Station.count_missLimit]
    exact below

/-- R18, R23: a HAIL without a reply sets the next probe. -/
theorem State.applyOutcome_hailMissed (kind : d.record.kind = .hail) (miss : d.outcome.isMiss = true)
    (state : (s.station a).state = .probing ∨ (s.station a).state = .lost) :
    s.applyOutcome a d =
      s.setStation a
        { s.station a with
          nextDue := some (DueTime.ahead s.clock s.engine.params.probeInterval)
          probeMisses := satInc (s.station a).probeMisses
          lastFault := some ⟨d.outcome, .hail, s.clock⟩ } := by
  have bad : d.outcome ≠ .good := by
    intro good
    rw [good] at miss
    cases miss
  have unanswered : s.applyOutcome a d = (s.setStation a ((s.station a).count s.clock d)).probeAgain a := by
    rcases state with probing | lost
    · exact (State.applyOutcome_hail kind (.inl ⟨probing, rfl, rfl⟩)).2 bad
    · exact (State.applyOutcome_hail kind (.inr ⟨lost, rfl, rfl⟩)).2 bad
  rw [unanswered, Station.count_hailMissed kind bad, if_pos miss, State.probeAgain, State.withStation,
    State.station_setStation_self, State.setStation_setStation]
  rfl

end Ends

/-- Settles O40: the exchange completes with NO_REPLY; its delivery case by case, then what follows it. -/
theorem replyTimeoutIsAMiss : Obligations.ReplyTimeoutIsAMiss := by
  intro s closed x since seen done raised ended running on await hraised hclosed hended hdone
  obtain rfl : raised = satInc := hraised.trans (funext fun c => (satInc_eq c).symm)
  have isClosed : s.closed .noReply = closed := hclosed ▸ rfl
  have follows : ∀ u : State, u.engine.role = s.engine.role → u.fallback = s.fallback → x.record.origin ≠ .fallback →
      u.afterCompletion x.record = done u := by
    intro u role fallback served
    rcases hdone with ⟨master, pending, rfl⟩ | ⟨master, pending, payload, held, rfl⟩ |
      ⟨master, pending, omitted, rfl⟩ | ⟨stopping, rfl⟩
    · exact State.afterCompletion_selects (role.trans master) served (fallback ▸ pending)
    · rw [State.afterCompletion_advances (role.trans master) served (fallback ▸ pending),
        State.advanceFallback_commits (fallback ▸ held)]
      rfl
    · rw [State.afterCompletion_advances (role.trans master) served (fallback ▸ pending),
        State.advanceFallback_omits (fallback ▸ omitted), State.endFallback_eq, role, master, fallback, hended]
    · rw [State.afterCompletion_stops (role.trans stopping) served, fallback, hended]
  have row := exec_replyTimeout running on await
  refine ⟨fun early => ?_, fun unseen late => ?_⟩
  · rw [row, if_neg]
    rintro ⟨unseen, late⟩
    rcases early with startBit | before
    · exact Bool.false_ne_true (unseen.symm.trans startBit)
    · omega
  rw [if_pos ⟨unseen, late⟩] at row
  have completes : ∀ t, x.record.origin ≠ .fallback → closed.dispatch ⟨x.record, .noReply, []⟩ = t →
      exec .replyTimeout s = .next (done t) := by
    rintro t served rfl
    rw [row, State.completeExchange_eq on, isClosed, follows _ _ _ served]
    · rw [State.dispatch_engine, hclosed]
    · rw [State.dispatch_fallback, hclosed]
  have station : ∀ b, closed.station b = s.station b := fun b => hclosed ▸ rfl
  refine ⟨⟨_, row, State.completeExchange_completesTo on _ _⟩, fun anchor orphaned due => ?_,
    fun a e anchor live names entry => ⟨fun misses kind due state below => ?_, fun kind probe state => ?_⟩,
    fun r result decided origin found hdecided hresult => ?_⟩
  · have isDue : x.record.origin.isDue anchor := due
    refine completes _ isDue.served ?_
    rw [State.dispatch_of_silent closed fun _ _ => orphaned, State.queueDecides_of_due isDue]
  · have isDue : x.record.origin.isDue anchor := due.imp_right .inl
    subst entry
    rw [← station] at state below
    refine completes _ isDue.served ?_
    rw [State.dispatch_of_live closed names live, State.queueDecides_of_due isDue,
      State.applyOutcome_missBelow (by rw [kind]; decide) rfl state below, station, kind, hclosed]
    rfl
  · have isDue : x.record.origin.isDue anchor := .inr (.inr probe)
    subst entry
    rw [← station] at state
    refine completes _ isDue.served ?_
    rw [State.dispatch_of_live closed names live, State.queueDecides_of_due isDue,
      State.applyOutcome_hailMissed kind rfl state, station, hclosed]
    rfl
  · have served : x.record.origin ≠ .fallback := by rw [origin]; exact Origin.noConfusion
    have fate : (r.attempted .noReply).fate closed.clock x.record.orphaned .noReply = result := by
      rw [hresult, hclosed]
      exact Request.missFate_attempted _ _ _ r
    have found' : closed.findRequest r.tag = some r := by rw [hclosed]; exact found
    have isDecided : closed.decideRequest r.tag ⟨x.record, .noReply, []⟩ = decided := by
      cases result with
      | none =>
        rw [State.decideRequest_waits found' fate, hdecided, hclosed]
        rfl
      | some final =>
        rw [State.decideRequest_completes found' rfl fate, hdecided, hclosed]
        rfl
    refine ⟨fun orphaned => completes _ served ?_,
      fun a e misses live names entry kind state below => completes _ served ?_⟩
    · rw [State.dispatch_of_silent closed fun _ _ => orphaned, State.queueDecides_of_request origin, isDecided]
    · have notHail : x.record.kind ≠ .hail := by rcases kind with kind | kind <;> rw [kind] <;> decide
      have kept : decided.station a = s.station a ∧ decided.clock = s.clock := by
        rw [hdecided, hclosed]
        exact ⟨rfl, rfl⟩
      subst entry
      rw [← kept.1] at state below
      rw [State.dispatch_of_live closed names live, State.queueDecides_of_request origin, isDecided,
        State.applyOutcome_missBelow notHail rfl state below, kept.1, kept.2]
      rfl

/-- Settles O49: the BCAST is SENT, and the request it served or the fallback ends with it. -/
theorem broadcastsSettleAsSent : Obligations.BroadcastsSettleAsSent := by
  rintro s base x running on settle silent noChar free gap rfl
  have reached : s.engine.gapReached = true := by
    rw [LineEngine.gapReached_of_quiet (s.engine.isQuiet_iff.2 ⟨noChar, free⟩)]
    exact decide_eq_true gap
  have noStation : ∀ b, x.record.station = some b → x.record.orphaned = true := fun b names => by
    rw [silent] at names
    cases names
  rw [exec_broadcastSettled running on settle reached, State.completeExchange_eq on,
    State.dispatch_of_silent (s.closed .sent) noStation]
  refine ⟨fun r origin found master noFallback => ?_, fun fallback role => ?_⟩
  · have served : x.record.origin ≠ .fallback := by rw [origin]; exact Origin.noConfusion
    rw [State.queueDecides_of_request origin,
      State.decideRequest_completes (s := s.closed .sent) (result := .sent) found rfl rfl]
    exact congrArg Host.Outcome.next (State.afterCompletion_selects master served noFallback)
  · have silence : (s.closed .sent).queueDecides ⟨x.record, .sent, []⟩ = s.closed .sent := by
      rw [State.queueDecides, fallback]
    rw [silence, State.afterCompletion_ends (s := s.closed .sent) role fallback, State.endFallback_eq]
    rfl

end Sys2Proof.Machine
end

section
/-!
SUPPORT. A complete reply and the six checks that classify it (R101 to R104).
-/

namespace Sys2Proof.Machine

/-! ### The parts of a reply (R76, R103, R200) -/

/-- R200: the kind field of a header, its bits 4 to 6. -/
theorem headerReplyKind?_eq (h : Byte) :
    headerReplyKind? h =
      [none, some ReplyKind.data, some .ack, some .nak, some .ident][h.toNat / 16 % 8]?.join := by
  revert h; decide

theorem headerToggle_eq (h : Byte) : headerToggle h = (h.toNat % 2 == 1) := by revert h; decide

/-- R76: what stands between the length and the CRC. -/
theorem telegramPayload_eq (header source length hi lo : Byte) (payload : List Byte) :
    telegramPayload (header :: source :: length :: payload ++ [hi] ++ [lo]) = payload := by
  simp [telegramPayload]

/-- R103: the reply kinds a call accepts, with their lengths, up to the longest payload. -/
theorem replyAccepted_iff {call : CallKind} {reply : Option ReplyKind} {n : Nat} (short : n ≤ 32) :
    replyAccepted call reply n = true ↔
      (call = .poll ∨ call = .get) ∧ (reply = some .data ∨ reply = some .nak ∧ n = 1) ∨
        call = .put ∧ (reply = some .ack ∧ n = 0 ∨ reply = some .nak ∧ n = 1) ∨
        call = .hail ∧ (reply = some .ident ∧ n = 3 ∨ reply = some .nak ∧ n = 1) := by
  cases call <;> rcases reply with _ | _ | _ | _ | _ <;> simp [replyAccepted, short]

/-! ### The six checks (R102) -/

/-- R102: the checks in their order, on a telegram in its parts. -/
theorem ExchangeRecord.classify_eq (r : ExchangeRecord) (header source length hi lo : Byte) (payload : List Byte) :
    r.classify (header :: source :: length :: payload ++ [hi] ++ [lo]) =
      if crc16 (header :: source :: length :: payload) ≠ hi ++ lo then .garbled .crc
      else if source ≠ destByte r.station then .wrongSource
      else if ¬ replyAccepted r.kind (headerReplyKind? header) payload.length = true then .garbled .wrongKind
      else if r.kind = .put ∧ r.toggleSent ≠ some (header.toNat % 2 == 1) then .stale
      else if r.kind = .poll ∧ headerReplyKind? header = some .data ∧ r.imageLength ≠ some payload.length then
        .garbled .badLength
      else if headerReplyKind? header = some .nak then .refused (charAt payload 0)
      else .good := by
  have check : crc16 (header :: source :: length :: payload ++ [hi] ++ [lo]) = 0#16 ↔
      crc16 (header :: source :: length :: payload) = hi ++ lo := by
    rw [List.append_assoc]
    exact crc16_check _ hi lo
  have first : charAt (header :: source :: length :: payload ++ [hi] ++ [lo]) 0 = header := rfl
  have second : charAt (header :: source :: length :: payload ++ [hi] ++ [lo]) 1 = source := rfl
  simp only [ExchangeRecord.classify, ne_eq, check, first, second, telegramPayload_eq, headerToggle_eq,
    Bool.not_eq_true', Bool.not_eq_true]

/-! ### The row (R83, R102) -/

section Row

variable {s : State} {x : Exchange}

theorem exec_telegramComplete {chars : List Byte} (b : Byte) (running : s.held = false)
    (framing : s.engine.framing = true) (collecting : s.engine.framer = .collecting chars)
    (low : telegramCrcLowNext chars = true) :
    exec (.telegramComplete b) s =
      .next (((s.hear .idle).setFramer .skipping).replyComplete (chars ++ [b])) := by
  show execTelegramComplete b s = _
  rw [execTelegramComplete, whenRunning_of_running running, collecting]
  dsimp only
  rw [framing, low]
  rfl

/-- R102: an exchange that is RECEIVING completes with the classification; a GOOD reply's payload is its data. -/
theorem State.replyComplete_receiving (on : s.engine.exchange = some x) (receiving : x.phase = .receiving)
    (chars : List Byte) :
    s.replyComplete chars =
      s.completeExchange (x.record.classify chars)
        (if x.record.classify chars = .good then telegramPayload chars else []) := by
  obtain ⟨record, phase⟩ := x
  subst receiving
  rw [State.replyComplete, on]

end Row

/-- Settles O42: the completion is `CompletesTo`, and the telegram's parts decide the six checks one after another. -/
theorem repliesAreClassifiedInOrder : Obligations.RepliesAreClassifiedInOrder := by
  refine ⟨fun s x outcome data on => State.completeExchange_completesTo on outcome data, ?_⟩
  intro s base x header source length hi lo payload reply accepted running on receiving lde free collecting counted
    short hreply haccepted hbase
  rw [← headerReplyKind?_eq] at hreply
  subst hreply
  have byte : ∀ k : Byte, length = k ↔ payload.length = k.toNat := fun k => by rw [counted, BitVec.toNat_inj]
  have accepts : replyAccepted x.record.kind (headerReplyKind? header) payload.length = true ↔ accepted := by
    rw [haccepted, replyAccepted_iff (counted ▸ short)]
    simp only [byte]
    rfl
  have low : telegramCrcLowNext (header :: source :: length :: payload ++ [hi]) = true := by
    simp [telegramCrcLowNext, counted]
  have heard : (s.hear .idle).setFramer .skipping = base := by rw [State.hear_idle free, hbase]; rfl
  have on' : base.engine.exchange = some x := by rw [hbase]; exact on
  have row : ∀ outcome, x.record.classify (header :: source :: length :: payload ++ [hi] ++ [lo]) = outcome →
      exec (.telegramComplete lo) s =
        .next (base.completeExchange outcome (if outcome = .good then payload else [])) := by
    rintro outcome rfl
    rw [exec_telegramComplete lo running (s.engine.framing_iff.2 ⟨lde, free⟩) collecting low, heard,
      State.replyComplete_receiving on' receiving, telegramPayload_eq]
  obtain rfl := propext accepts
  simp only [ExchangeRecord.classify_eq] at row
  refine ⟨fun wrongCrc => row _ (if_pos wrongCrc), fun rightCrc => ?_⟩
  simp only [if_neg (not_not_intro rightCrc)] at row
  refine ⟨fun other => row _ (if_pos other), fun same => ?_⟩
  simp only [if_neg (not_not_intro same)] at row
  refine ⟨fun refused => row _ (if_pos refused), fun isAccepted => ?_⟩
  simp only [if_neg (not_not_intro isAccepted)] at row
  refine ⟨fun put turned => row _ (if_pos ⟨put, turned⟩), fun poll data other => ?_, fun toggle size => ?_⟩
  · have notPut : ¬ (x.record.kind = .put ∧ x.record.toggleSent ≠ some (header.toNat % 2 == 1)) := by
      rw [poll]
      exact fun put => CallKind.noConfusion put.1
    exact row _ ((if_neg notPut).trans (if_pos ⟨poll, data, counted ▸ other⟩))
  · have notStale : ¬ (x.record.kind = .put ∧ x.record.toggleSent ≠ some (header.toNat % 2 == 1)) :=
      fun ⟨put, turned⟩ => turned (toggle put)
    have fitting : ¬ (x.record.kind = .poll ∧ headerReplyKind? header = some .data ∧
        x.record.imageLength ≠ some payload.length) :=
      fun ⟨poll, data, other⟩ => other (counted ▸ size poll data)
    simp only [if_neg notStale, if_neg fitting] at row
    refine ⟨fun reason nak alone => row _ ?_, fun answer => row _ (if_neg answer)⟩
    rw [if_pos nak, alone]
    rfl

end Sys2Proof.Machine
end

section
/-!
SUPPORT. What commands set, and that no event of the line changes it.
-/

namespace Sys2Proof.Machine

/-- R115, R147, R188: what LINE_SETUP, FALLBACK_SET and LINK_SETUP set for good. -/
structure Settings where
  line : LineParams
  silenceLimit : Nat
  payload : Option (List Byte)
  ackTimeout : Nat

def State.settings (s : State) : Settings :=
  ⟨s.engine.params, s.fallback.limit, s.fallback.payload, s.reports.ackTimeout⟩

/-- R115, R147, R188: each within its range. -/
def Settings.inRange (v : Settings) : Prop :=
  v.line.inRange ∧
  ((v.silenceLimit = 0 ∨ (100 ≤ v.silenceLimit ∧ v.silenceLimit ≤ 60000)) ∧
    ∀ payload ∈ v.payload, 1 ≤ payload.length ∧ payload.length ≤ 32) ∧
  20 ≤ v.ackTimeout ∧ v.ackTimeout ≤ 2000

theorem parametersOk_iff (s : State) : ParametersOk s ↔ s.settings.inRange := Iff.rfl

/-! ### Updates of one block -/

section Blocks

variable (s : State)

@[simp] theorem State.withEngine_settings {f : LineEngine → LineEngine}
    (params : ∀ g, (f g).params = g.params) : (s.withEngine f).settings = s.settings := by
  simp [State.settings, params]

@[simp] theorem State.withFallback_settings {f : Fallback → Fallback} (limit : ∀ g, (f g).limit = g.limit)
    (payload : ∀ g, (f g).payload = g.payload) : (s.withFallback f).settings = s.settings := by
  simp [State.settings, limit, payload]

@[simp] theorem State.withReports_settings {f : ReportUnit → ReportUnit}
    (ackTimeout : ∀ u, (f u).ackTimeout = u.ackTimeout) : (s.withReports f).settings = s.settings := by
  simp [State.settings, ackTimeout]

@[simp] theorem State.withHost_settings (f : HostLink → HostLink) : (s.withHost f).settings = s.settings := rfl
@[simp] theorem State.withUnit_settings (f : CommandUnit → CommandUnit) : (s.withUnit f).settings = s.settings := rfl
@[simp] theorem State.withRequests_settings (f : List Request → List Request) :
    (s.withRequests f).settings = s.settings := rfl
@[simp] theorem State.setStation_settings (a : Addr) (e : Station) : (s.setStation a e).settings = s.settings := rfl
@[simp] theorem State.withStation_settings (a : Addr) (f : Station → Station) :
    (s.withStation a f).settings = s.settings := rfl

@[simp] theorem State.putReport_settings (r : Report) : (s.putReport r).settings = s.settings := rfl
@[simp] theorem State.updateRequest_settings (tag : Half) (f : Request → Request) :
    (s.updateRequest tag f).settings = s.settings := rfl
@[simp] theorem State.hear_settings (stop : StopBit) : (s.hear stop).settings = s.settings := rfl
@[simp] theorem State.setFramer_settings (f : Framer) : (s.setFramer f).settings = s.settings := rfl
@[simp] theorem State.setPhase_settings (phase : Phase) : (s.setPhase phase).settings = s.settings := rfl
@[simp] theorem State.countContention_settings : s.countContention.settings = s.settings := rfl
@[simp] theorem State.leaveMaster_settings (role : LineRole) (phase : FallbackPhase) :
    (s.leaveMaster role phase).settings = s.settings := rfl
@[simp] theorem State.endFallback_settings (detail : LineDetail) : (s.endFallback detail).settings = s.settings := rfl
@[simp] theorem State.callSent_settings (kind : CallKind) : (s.callSent kind).settings = s.settings := rfl

/-! ### The notice of a good CRC and acknowledgements (R145, R149, R189) -/

@[simp] theorem State.restartSilence_settings : s.restartSilence.settings = s.settings := by
  unfold State.restartSilence
  split <;> simp

@[simp] theorem State.goodFrame_settings : s.goodFrame.settings = s.settings := by
  have stall : (s.reports.stallEnded s.clock).ackTimeout = s.reports.ackTimeout := by
    unfold ReportUnit.stallEnded
    repeat' split
    all_goals rfl
  have notice : s.goodFrame.settings = { s.restartSilence.settings with
      ackTimeout := (s.reports.stallEnded s.clock).ackTimeout } := by
    rw [State.goodFrame_eq, State.restartSilence_eq]
    rfl
  rw [notice, stall, State.restartSilence_settings]
  rfl

@[simp] theorem State.applyAck_settings (q : Byte) : (s.applyAck q).settings = s.settings := by
  unfold State.applyAck
  split <;> rfl

/-! ### Requests and stations -/

@[simp] theorem State.completeRequest_settings (tag : Half) (result : RequestResult) (data : List Byte) :
    (s.completeRequest tag result data).settings = s.settings := by
  unfold State.completeRequest
  split <;> rfl

@[simp] theorem State.removeWaiting_settings (a : Addr) (result : RequestResult) :
    (s.removeWaiting a result).settings = s.settings := by
  unfold State.removeWaiting
  induction s.requests.filter (Request.waitsFor a) generalizing s with
  | nil => rfl
  | cons r rest ih => rw [List.foldl_cons, ih, State.completeRequest_settings]

@[simp] theorem State.withOrphan_settings (a : Addr) : (s.withEngine (LineEngine.orphan a)).settings = s.settings :=
  rfl

@[simp] theorem State.decideRequest_settings (tag : Half) (d : Delivery) :
    (s.decideRequest tag d).settings = s.settings := by
  unfold State.decideRequest
  dsimp only
  repeat' split
  all_goals simp

@[simp] theorem State.enterLost_settings (a : Addr) (old : StationState) :
    (s.enterLost a old).settings = s.settings := by
  simp [State.enterLost]

@[simp] theorem State.missed_settings (a : Addr) : (s.missed a).settings = s.settings := by
  unfold State.missed
  dsimp only
  split <;> simp

@[simp] theorem State.hailAnswered_settings (a : Addr) (must : Option Identity) (identity : Identity)
    (reason : StationReason) : (s.hailAnswered a must identity reason).settings = s.settings := by
  unfold State.hailAnswered
  dsimp only
  split <;> simp

@[simp] theorem State.probeAgain_settings (a : Addr) : (s.probeAgain a).settings = s.settings := rfl

@[simp] theorem State.handleImage_settings (a : Addr) (recorded : Option Nat) (data : List Byte) :
    (s.handleImage a recorded data).settings = s.settings := by
  unfold State.handleImage State.storeImage
  dsimp only
  repeat' split
  all_goals simp

@[simp] theorem State.applyOutcome_settings (a : Addr) (d : Delivery) : (s.applyOutcome a d).settings = s.settings := by
  unfold State.applyOutcome
  dsimp only
  repeat' split
  all_goals simp

@[simp] theorem State.modifyStation_settings (p : ModifyParams) : (s.modifyStation p).settings = s.settings := by
  unfold State.modifyStation State.setMissLimit
  dsimp only
  repeat' split
  all_goals simp

/-! ### Selections and commitments (R64, R67) -/

@[simp] theorem LineEngine.tryStart_params (g : LineEngine) : g.tryStart.params = g.params := by
  unfold LineEngine.tryStart
  repeat' split
  all_goals rfl

@[simp] theorem LineEngine.commit_params (r : ExchangeRecord) (g : LineEngine) :
    (LineEngine.commit r g).params = g.params := by
  simp [LineEngine.commit]

@[simp] theorem State.select_settings : s.select.settings = s.settings := by
  unfold State.select State.commit
  repeat' split
  all_goals simp

@[simp] theorem State.selectIf_settings (created : Bool) : (s.selectIf created).settings = s.settings := by
  unfold State.selectIf
  split <;> simp

/-! ### Roles and the end of an exchange (R106, R108, R117, R124, R190) -/

@[simp] theorem State.becomeMaster_settings : s.becomeMaster.settings = s.settings := by
  simp [State.becomeMaster]

@[simp] theorem State.undoCommitment_settings (record : ExchangeRecord) (collision : Option ExOutcome) :
    (s.undoCommitment record collision).settings = s.settings := by
  unfold State.undoCommitment State.undoRequest State.cascadeUndone State.undoDue
  dsimp only
  repeat' split
  all_goals simp

@[simp] theorem State.stopMaster_settings : s.stopMaster.settings = s.settings := by
  unfold State.stopMaster
  repeat' split
  all_goals simp

@[simp] theorem State.advanceFallback_settings : s.advanceFallback.settings = s.settings := by
  unfold State.advanceFallback
  split <;> simp

@[simp] theorem State.dispatch_settings (d : Delivery) : (s.dispatch d).settings = s.settings := by
  unfold State.dispatch
  dsimp only
  repeat' split
  all_goals simp

@[simp] theorem State.completeExchange_settings (outcome : ExOutcome) (data : List Byte) :
    (s.completeExchange outcome data).settings = s.settings := by
  unfold State.completeExchange State.afterCompletion
  dsimp only
  repeat' split
  all_goals simp

@[simp] theorem State.contentionRole_settings (detail : CollisionDetail) :
    (s.contentionRole detail).settings = s.settings := by
  unfold State.contentionRole
  split <;> rfl

@[simp] theorem State.collide_settings (detail : CollisionDetail) : (s.collide detail).settings = s.settings := by
  unfold State.collide
  dsimp only
  repeat' split
  all_goals simp

@[simp] theorem State.judgeStart_settings (ch : RxChar) : (s.judgeStart ch).settings = s.settings := by
  unfold State.judgeStart State.idleContention
  repeat' split
  all_goals simp

@[simp] theorem State.replyFault_settings (detail : GarbledDetail) : (s.replyFault detail).settings = s.settings := by
  unfold State.replyFault
  split <;> simp

@[simp] theorem State.replyComplete_settings (chars : List Byte) : (s.replyComplete chars).settings = s.settings := by
  unfold State.replyComplete
  split <;> simp

end Blocks

end Sys2Proof.Machine
end

section
/-!
SUPPORT. The host side and the settings of a running device, and that every command keeps them.
-/

namespace Sys2Proof.Machine

section Steps

variable {s t : State}

/-! ### The running device as its host side and its settings show it -/

/-- A device out of reset, whatever its response slot holds: a frame assembled as its bytes say, settings in range. -/
structure Steady (s : State) : Prop where
  held : s.held = false
  receiver : s.host.receiver.fits = true
  settings : s.settings.inRange

/-- R162, R164, R167, R182: and a held response is the cached one, without which nothing waits for one. -/
structure Tidy (s : State) : Prop extends Steady s where
  cached : ∀ r ∈ s.unit.responseSlot, s.host.cache = some r
  free : s.unit.responseSlot = none →
    s.host.readySlot = none ∧ s.host.pendingRate = none ∧ s.unit.pendingRestart = false ∧
      s.host.sendingResponse = false

/-- What every step has to leave. -/
structure Orderly (s : State) : Prop where
  hostSide : HostSideOk s
  parameters : ParametersOk s
  held : HeldOk s

theorem Tidy.orderly (h : Tidy s) : Orderly s :=
  ⟨⟨h.receiver, h.cached, h.free⟩, (parametersOk_iff s).2 h.settings,
    fun held => (Bool.false_ne_true (h.held.symm.trans held)).elim⟩

theorem DeviceOk.orderly (h : DeviceOk s) : Orderly s := by
  obtain ⟨-, -, -, -, -, hostSide, parameters, held⟩ := h
  exact ⟨hostSide, parameters, held⟩

theorem DeviceOk.tidy (h : DeviceOk s) (held : s.held = false) : Tidy s := by
  obtain ⟨⟨receiver, cached, free⟩, settings, -⟩ := h.orderly
  exact ⟨⟨held, receiver, (parametersOk_iff s).1 settings⟩, cached, free⟩

/-! ### Changes that leave the host side, and changes of the Host Link alone -/

/-- What the line, the stations and the requests do. -/
theorem Steady.of_line (h : Steady s) (held : t.held = s.held := by simp) (host : t.host = s.host := by simp)
    (settings : t.settings = s.settings := by simp) : Steady t :=
  ⟨held.trans h.held, by rw [host]; exact h.receiver, by rw [settings]; exact h.settings⟩

theorem Tidy.of_line (h : Tidy s) (held : t.held = s.held := by simp) (host : t.host = s.host := by simp)
    (unit : t.unit = s.unit := by simp) (settings : t.settings = s.settings := by simp) : Tidy t := by
  refine ⟨h.toSteady.of_line held host settings, ?_, ?_⟩ <;> rw [unit, host]
  · exact h.cached
  · exact h.free

/-- A change of the Host Link that leaves its cache and what waits for a response. -/
theorem Tidy.withHost (h : Tidy s) {f : HostLink → HostLink} (receiver : (f s.host).receiver.fits = true)
    (cache : (f s.host).cache = s.host.cache) (readySlot : (f s.host).readySlot = s.host.readySlot)
    (pendingRate : (f s.host).pendingRate = s.host.pendingRate)
    (sending : s.host.sendingResponse = false → (f s.host).sendingResponse = false) : Tidy (s.withHost f) := by
  refine ⟨⟨h.held, receiver, h.settings⟩, fun r hr => cache.trans (h.cached r hr), fun none => ?_⟩
  obtain ⟨ready, rate, restart, idle⟩ := h.free none
  exact ⟨readySlot.trans ready, pendingRate.trans rate, restart, sending idle⟩

/-- With a response held, only that it is the cached one matters. -/
theorem Steady.tidy_of_response (h : Steady s) {r : Response} (slot : s.unit.responseSlot = some r)
    (cache : s.host.cache = some r) : Tidy s := by
  refine ⟨h, fun q hq => ?_, fun none => ?_⟩
  · rw [slot] at hq
    cases hq
    exact cache
  · rw [slot] at none
    cases none

/-! ### The commands (R167, R172, R188) -/

@[simp] theorem accept_state (s : State) : (accept s).state = s := rfl

@[simp] theorem refuse_state (status : Status) (s : State) : (refuse status s).state = s := rfl

theorem rangeLinkSetup_timeout {raw : Byte × Half} {p : LinkParams} (h : rangeLinkSetup raw = some p) :
    20 ≤ p.ackTimeout ∧ p.ackTimeout ≤ 2000 := by
  simp only [rangeLinkSetup, Option.bind_eq_bind, Option.bind_eq_some_iff, inRange_some, Option.some.injEq] at h
  obtain ⟨_, _, _, ⟨rfl, range⟩, rfl⟩ := h
  exact range

theorem rangeFallbackSet_inRange {raw : Half × List Byte} {p : FallbackParams} (h : rangeFallbackSet raw = some p) :
    (p.limit = 0 ∨ 100 ≤ p.limit ∧ p.limit ≤ 60000) ∧
      ∀ payload ∈ p.payload, 1 ≤ payload.length ∧ payload.length ≤ 32 := by
  obtain ⟨limit, payload⟩ := raw
  have parts : (p.limit = 0 ∨ 100 ≤ p.limit ∧ p.limit ≤ 60000) ∧ payload.length ≤ 32 ∧
      p.payload = nonEmpty? payload := by
    unfold rangeFallbackSet at h
    dsimp only at h
    split at h
    · simp only [Option.bind_eq_bind, Option.bind_eq_some_iff, inRange_some, Option.some.injEq] at h
      obtain ⟨_, rfl, _, ⟨-, -, short⟩, rfl⟩ := h
      exact ⟨.inl rfl, short, rfl⟩
    · simp only [Option.bind_eq_bind, Option.bind_eq_some_iff, inRange_some, Option.some.injEq] at h
      obtain ⟨_, ⟨rfl, limit⟩, _, ⟨-, -, short⟩, rfl⟩ := h
      exact ⟨.inr limit, short, rfl⟩
  obtain ⟨limit, short, given⟩ := parts
  refine ⟨limit, fun bytes held => ?_⟩
  rw [given] at held
  cases payload with
  | nil => cases held
  | cons b rest =>
    cases held
    exact ⟨Nat.succ_pos _, short⟩

/-- R115, R116: the five line parameters as read, each within its range. -/
theorem rangeLineSetup_eq_some {raw : RawLineSetup} {p : LineParams} :
    rangeLineSetup raw = some p ↔
      LineRate.ofCode? raw.rate = some p.rate ∧
        p = ⟨p.rate, raw.gap.toNat, raw.replyTimeout.toNat, raw.probeInterval.toNat, raw.quietInterval.toNat⟩ ∧
        p.inRange := by
  simp only [rangeLineSetup, Option.bind_eq_bind, Option.bind_eq_some_iff, inRange_some, Option.some.injEq,
    LineParams.inRange]
  constructor
  · rintro ⟨rate, code, _, ⟨rfl, gap⟩, _, ⟨rfl, reply⟩, _, ⟨rfl, probe⟩, _, ⟨rfl, quiet⟩, rfl⟩
    exact ⟨code, rfl, gap.1, gap.2, reply.1, reply.2, probe.1, probe.2, quiet.1, quiet.2⟩
  · rintro ⟨code, read, range⟩
    rw [read] at range
    obtain ⟨gap, gap', reply, reply', probe, probe', quiet, quiet'⟩ := range
    exact ⟨_, code, _, ⟨rfl, gap, gap'⟩, _, ⟨rfl, reply, reply'⟩, _, ⟨rfl, probe, probe'⟩, _,
      ⟨rfl, quiet, quiet'⟩, read.symm⟩

theorem LineEngine.setParams_params (p : LineParams) (g : LineEngine) : (g.setParams p).params = p := by
  unfold LineEngine.setParams
  split <;> rfl

theorem State.setFallback_settings (p : FallbackParams) (s : State) :
    (s.setFallback p).settings = { s.settings with silenceLimit := p.limit, payload := p.payload } := by
  unfold State.setFallback
  dsimp only
  split
  · rw [State.restartSilence_settings]
    rfl
  · rfl

theorem Steady.setFallback (h : Steady s) {p : FallbackParams} {raw : Half × List Byte}
    (range : rangeFallbackSet raw = some p) : Steady (s.setFallback p) := by
  have untouched : (s.setFallback p).held = s.held ∧ (s.setFallback p).host = s.host := by
    unfold State.setFallback
    dsimp only
    split <;> simp
  obtain ⟨line, -, ack⟩ := h.settings
  refine ⟨untouched.1.trans h.held, by rw [untouched.2]; exact h.receiver, ?_⟩
  rw [State.setFallback_settings]
  exact ⟨line, rangeFallbackSet_inRange range, ack⟩

theorem Steady.setParams (h : Steady s) {p : LineParams} (range : p.inRange) :
    Steady (s.withEngine (LineEngine.setParams p)) := by
  obtain ⟨-, fallback, ack⟩ := h.settings
  refine ⟨h.held, h.receiver, ?_, fallback, ack⟩
  rw [← LineEngine.setParams_params p s.engine] at range
  exact range

theorem Steady.stopMaster (h : Steady s) : Steady s.stopMaster := by
  unfold State.stopMaster
  repeat' split
  all_goals exact h.of_line

/-- R172: whatever the command, and whether it is carried out or refused. -/
theorem Steady.perform (h : Steady s) (name : CommandName) (params : List Byte) :
    Steady (s.perform name params).state := by
  cases name with
  | identify | roster | queueQuery => exact bare_state h h
  | stationQuery => exact checked_state h fun raw a _ => h
  | status =>
    refine checked_state h fun raw clear _ => ?_
    cases clear with
    | false => exact h
    | true => exact ⟨h.held, h.receiver, h.settings⟩
  | restart => exact bare_state h h.of_line
  | linkSetup =>
    refine checked_state h fun raw p range => ?_
    obtain ⟨line, fallback, -⟩ := h.settings
    exact ⟨h.held, h.receiver, line, fallback, rangeLinkSetup_timeout range⟩
  | fallbackSet => exact checked_state h fun raw p range => h.setFallback range
  | lineSetup =>
    refine checked_state h fun raw p range => ?_
    cases s.engine.role with
    | off => exact h.setParams (rangeLineSetup_eq_some.1 range).2.2
    | master | stopping | yielded => exact h
  | lineStart =>
    refine bare_state h ?_
    cases s.engine.role with
    | off => exact h.of_line
    | master | stopping | yielded => exact h
  | lineStop =>
    refine bare_state h ?_
    cases s.engine.role with
    | master => exact h.stopMaster
    | yielded => exact h.of_line
    | off | stopping => exact h
  | lineResume =>
    refine bare_state h ?_
    cases s.engine.role with
    | yielded =>
      dsimp only
      split
      · exact h.of_line
      · exact h
    | off | master | stopping => exact h
  | enrol =>
    refine checked_state h fun raw p _ => ?_
    unfold State.enrolStation
    split <;> exact h.of_line
  | modify =>
    refine checked_state h fun raw p _ => ?_
    unfold State.modifyEntry
    split <;> exact h.of_line
  | park =>
    refine checked_state h fun raw a _ => ?_
    unfold State.parkStation
    split <;> exact h.of_line
  | release =>
    refine checked_state h fun raw a _ => ?_
    unfold State.releaseStation
    split <;> exact h.of_line
  | put | get | broadcast =>
    refine checked_state h fun raw p _ => ?_
    unfold State.acceptRequest
    repeat' split
    all_goals exact h.of_line
  | cancel =>
    refine checked_state h fun raw tag _ => ?_
    unfold State.cancelRequest
    repeat' split
    all_goals exact h.of_line

theorem Steady.answer (h : Steady s) (body : List Byte) : Steady (s.answer body).state := by
  unfold State.answer
  repeat' split
  · exact h
  · exact h
  · exact h.perform _ _

/-! ### The take and the ready slot (R160, R162 to R164) -/

/-- R164: the response built is held and cached. -/
theorem Steady.respond (h : Steady s) (r : Response) : Tidy (s.respond r) :=
  Steady.tidy_of_response ⟨h.held, h.receiver, h.settings⟩ (r := r) rfl rfl

theorem Steady.carryOut (h : Steady s) (f : CommandFrame) : Tidy (s.carryOut f) := (h.answer f.body).respond _

/-- R163: a response from the cache is the cached one. -/
theorem Steady.takeFrame (h : Steady s) (f : CommandFrame) : Tidy (s.takeFrame f) := by
  unfold State.takeFrame
  split
  · exact h.carryOut f
  · next cached cache =>
    split
    · exact Steady.tidy_of_response (r := cached) h.of_line rfl cache
    · exact h.carryOut f

theorem Steady.goodFrame (h : Steady s) : Steady s.goodFrame :=
  ⟨by simpa using h.held, by simp [Receiver.fits], by simpa using h.settings⟩

theorem Tidy.goodFrame (h : Tidy s) : Tidy s.goodFrame := by
  refine ⟨h.toSteady.goodFrame, ?_, ?_⟩ <;> rw [State.goodFrame_unit, State.goodFrame_host]
  · exact h.cached
  · exact h.free

/-- R160: beside a held response a command waits, or meets an overrun. -/
theorem Tidy.placeReady (h : Tidy s) {r : Response} (slot : s.unit.responseSlot = some r) (f : CommandFrame) :
    Tidy (s.placeReady f) := by
  unfold State.placeReady
  split <;> exact Steady.tidy_of_response ⟨h.held, h.receiver, h.settings⟩ slot (h.cached r slot)

theorem Tidy.offer (h : Tidy s) (f : CommandFrame) : Tidy (s.offer f) := by
  cases slot : s.unit.responseSlot with
  | none =>
    rw [State.offer_of_free f (h.free slot).1 slot]
    exact h.toSteady.goodFrame.takeFrame f
  | some r =>
    rw [State.offer_of_response f slot]
    exact (h.placeReady slot f).goodFrame

theorem Tidy.receiveCommand (h : Tidy s) (f : CommandFrame) : Tidy (s.receiveCommand f) := by
  unfold State.receiveCommand
  split
  · exact h.offer f
  · exact h

end Steps

end Sys2Proof.Machine
end

section
/-!
SUPPORT. Every step keeps the host side, the settings and the held condition.
-/

namespace Sys2Proof.Machine

section Steps

variable {s t : State}

/-! ### A response delivered, a break and reset (R162, R168, R170, R182, R185, R186) -/

theorem afterReset_tidy (cause : ResetCause) (hrxLow : Bool) (waiting : List Instr) :
    Tidy (State.afterReset cause hrxLow waiting) where
  held := rfl
  receiver := rfl
  settings := by simp [State.settings, State.afterReset, Settings.inRange, LineEngine.reset, LineParams.reset,
    LineParams.inRange, Fallback.reset, ReportUnit.reset, Config.defaultAckTimeout]
  cached := by simp [State.afterReset]
  free := fun _ => ⟨rfl, rfl, rfl, rfl⟩

/-- R162, R182: with HTX idle and no rate pending the response slot empties, and the next command is taken. -/
theorem Steady.responseGone (h : Steady s) (rate : s.host.pendingRate = none)
    (idle : s.host.sendingResponse = false) : Tidy s.responseGone := by
  unfold State.responseGone
  split
  · exact afterReset_tidy _ _ _
  · next restart =>
    unfold State.takeReady
    split
    · exact Steady.takeFrame (s := (s.withUnit fun u => { u with responseSlot := none }).withHost
        fun g => { g with readySlot := none }) ⟨h.held, h.receiver, h.settings⟩ _
    · next slot => cases slot
    · next ready =>
      refine ⟨h.of_line, (fun r hr => by cases hr), fun _ => ⟨ready, rate, by simpa using restart, idle⟩⟩

theorem HostLink.switchRate_cases (g : HostLink) :
    g.switchRate.pendingRate = none ∧ g.switchRate.tx = g.tx ∧
      (g.receiver.fits = true → g.switchRate.receiver.fits = true) := by
  unfold HostLink.switchRate
  split
  · next none => exact ⟨none, rfl, id⟩
  · split
    · exact ⟨rfl, rfl, id⟩
    · exact ⟨rfl, rfl, fun _ => rfl⟩

theorem Tidy.responseDelivered (h : Tidy s) :
    Tidy (s.withHost fun g => HostLink.switchRate { g with tx := none }).responseGone := by
  obtain ⟨rate, tx, receiver⟩ := HostLink.switchRate_cases { s.host with tx := none }
  refine Steady.responseGone ⟨h.held, receiver h.receiver, h.settings⟩ rate ?_
  rw [HostLink.sendingResponse, State.withHost_host, tx]

theorem Tidy.lineBreak (h : Tidy s) :
    Tidy (if s.host.sendingResponse then (s.withHost HostLink.break).responseGone else s.withHost HostLink.break) := by
  split
  · next sending =>
    exact Steady.responseGone ⟨h.held, rfl, h.settings⟩ (by simp [HostLink.break, sending]) rfl
  · next idle => exact h.withHost rfl rfl rfl (by simp [HostLink.break, idle]) fun _ => rfl

/-- R186: entry into reset leaves nothing in progress, and the settings as they are. -/
theorem abandon_orderly (h : ParametersOk s) (power : Power) : Orderly { s.abandon with power := power } where
  hostSide := ⟨rfl, by simp [State.abandon], fun _ => ⟨rfl, rfl, rfl, rfl⟩⟩
  parameters := h
  held := fun _ => ⟨rfl, rfl, rfl, rfl, rfl, rfl, rfl, rfl, rfl, rfl, rfl, rfl, rfl⟩

/-- R183, R184: a device that stays held has nothing in progress. -/
theorem Orderly.withPower (h : Orderly s) (held : s.held = true) (power : Power) :
    Orderly { s with power := power } :=
  ⟨h.hostSide, h.parameters, fun _ => h.held held⟩

/-- R169: the level of HRX is no part of it. -/
theorem Orderly.withHrx (h : Orderly s) (level : HrxLevel) :
    Orderly (s.withHost fun g => { g with hrx := level }) :=
  ⟨h.hostSide, h.parameters, h.held⟩

/-! ### Rows of the host link and of report transmission (R143, R148, R157, R165) -/

theorem Tidy.counted (h : Tidy s) (f : HostCounters → HostCounters) : Tidy (s.withHostCounters f) :=
  h.withHost h.receiver rfl rfl rfl id

theorem Tidy.toHunting (h : Tidy s) : Tidy s.toHunting := h.withHost rfl rfl rfl rfl id

theorem Tidy.withHrx (h : Tidy s) (level : HostLink → HrxLevel) :
    Tidy (s.withHost fun g => { g with hrx := level g }) :=
  h.withHost h.receiver rfl rfl rfl id

/-- R157: a byte before the CRC low byte, and no bad length. -/
theorem Receiver.fits_append {bytes : List Byte} {since now : Clock} {b : Byte}
    (fits : (Receiver.assembling bytes since).fits = true) (inside : crcLowNext bytes = false)
    (length : (bytes.isEmpty && lengthIsBad b) = false) :
    (Receiver.assembling (bytes ++ [b]) now).fits = true := by
  cases bytes with
  | nil => simpa [Receiver.fits] using length
  | cons l rest =>
    simp [Receiver.fits] at fits ⊢
    simp [crcLowNext] at inside
    exact ⟨fits.1, by omega⟩

@[simp] theorem ReportUnit.ackExpired_ackTimeout (now : Clock) (u : ReportUnit) :
    (u.ackExpired now).ackTimeout = u.ackTimeout := by
  unfold ReportUnit.ackExpired
  split <;> rfl

theorem ReportUnit.beginFrame_ackTimeout {now : Clock} {u u' : ReportUnit} {q : Byte} {body : List Byte}
    (begun : u.beginFrame now = some (q, body, u')) : u'.ackTimeout = u.ackTimeout := by
  unfold ReportUnit.beginFrame at begun
  split at begun
  · cases begun
  · split at begun
    · obtain ⟨_, -, eq⟩ := Option.map_eq_some_iff.1 begun
      cases eq
      rfl
    · split at begun
      · obtain ⟨_, -, eq⟩ := Option.map_eq_some_iff.1 begun
        cases eq
        rfl
      · cases begun

/-- R143, R165: a report frame begins on HTX. -/
theorem Tidy.reportFrameBegin (h : Tidy s) {q : Byte} {body bytes : List Byte} {u : ReportUnit} {rate : HostRate}
    (begun : s.reports.beginFrame s.clock = some (q, body, u)) :
    Tidy (({ s with reports := u } : State).withHost fun g => { g with tx := some ⟨.report, bytes, rate, 0⟩ }) := by
  have queued : Tidy ({ s with reports := u } : State) :=
    h.of_line rfl rfl rfl (by simp [State.settings, ReportUnit.beginFrame_ackTimeout begun])
  exact queued.withHost h.receiver rfl rfl rfl fun _ => rfl

/-! ### Every row -/

/-- A row is nothing in reset, and outside reset a change of a running device. -/
theorem whenRunning_orderly (h : DeviceOk s) {f : State → State} (keeps : Tidy s → Tidy (f s)) :
    Orderly (whenRunning f s) := by
  cases held : s.held with
  | true => rw [whenRunning_of_held held]; exact h.orderly
  | false => rw [whenRunning_of_running held]; exact (keeps (h.tidy held)).orderly

theorem hostCommand_orderly (h : DeviceOk s) (name : CommandName) (seq : Byte) (params : List Byte) :
    Orderly (hostCommand name seq params s) :=
  whenRunning_orderly h fun run => run.receiveCommand _

/-- BREAK (R169, R170). -/
theorem execLineBreak_orderly (h : DeviceOk s) : ∃ t, execLineBreak s = .next t ∧ Orderly t := by
  refine ⟨_, rfl, ?_⟩
  cases held : s.held with
  | true => exact h.orderly.withHrx _
  | false =>
    simp only [Bool.false_eq_true, if_false]
    split
    · exact (h.tidy held).lineBreak.orderly
    · exact h.orderly

/-- The rows of NRST and of the supply (R183, R184). -/
theorem exec_reset_orderly (h : DeviceOk s) :
    (∃ t, execNrstAssert s = .next t ∧ Orderly t) ∧ (∃ t, execNrstRelease s = .next t ∧ Orderly t) ∧
      (∃ t, execPowerUp s = .next t ∧ Orderly t) ∧ ∃ t, execSupplyFail s = .next t ∧ Orderly t := by
  refine ⟨⟨_, rfl, ?_⟩, ⟨_, rfl, ?_⟩, ⟨_, rfl, ?_⟩, ⟨_, rfl, ?_⟩⟩
  · split
    · exact h.orderly
    · exact abandon_orderly h.orderly.parameters _
  · split
    · next low =>
      split
      · exact (afterReset_tidy _ _ _).orderly
      · exact h.orderly.withPower (by simp [State.held, low]) _
    · exact h.orderly
  · split
    · exact h.orderly
    · next out =>
      split
      · exact h.orderly.withPower (by simp [State.held, out]) _
      · exact (afterReset_tidy _ _ _).orderly
  · split
    · exact abandon_orderly h.orderly.parameters _
    · exact h.orderly

/-- Every command and event keeps the host side, the settings and the held condition. -/
theorem exec_orderly (h : DeviceOk s) (i : Instr) : ∃ t, exec i s = .next t ∧ Orderly t := by
  obtain ⟨nrstAssert, nrstRelease, powerUp, supplyFail⟩ := exec_reset_orderly h
  cases i with
  | identify seq params => exact ⟨_, rfl, hostCommand_orderly h .identify seq params⟩
  | status seq params => exact ⟨_, rfl, hostCommand_orderly h .status seq params⟩
  | restart seq params => exact ⟨_, rfl, hostCommand_orderly h .restart seq params⟩
  | linkSetup seq params => exact ⟨_, rfl, hostCommand_orderly h .linkSetup seq params⟩
  | fallbackSet seq params => exact ⟨_, rfl, hostCommand_orderly h .fallbackSet seq params⟩
  | lineSetup seq params => exact ⟨_, rfl, hostCommand_orderly h .lineSetup seq params⟩
  | lineStart seq params => exact ⟨_, rfl, hostCommand_orderly h .lineStart seq params⟩
  | lineStop seq params => exact ⟨_, rfl, hostCommand_orderly h .lineStop seq params⟩
  | lineResume seq params => exact ⟨_, rfl, hostCommand_orderly h .lineResume seq params⟩
  | enrol seq params => exact ⟨_, rfl, hostCommand_orderly h .enrol seq params⟩
  | modify seq params => exact ⟨_, rfl, hostCommand_orderly h .modify seq params⟩
  | park seq params => exact ⟨_, rfl, hostCommand_orderly h .park seq params⟩
  | release seq params => exact ⟨_, rfl, hostCommand_orderly h .release seq params⟩
  | stationQuery seq params => exact ⟨_, rfl, hostCommand_orderly h .stationQuery seq params⟩
  | roster seq params => exact ⟨_, rfl, hostCommand_orderly h .roster seq params⟩
  | put seq params => exact ⟨_, rfl, hostCommand_orderly h .put seq params⟩
  | get seq params => exact ⟨_, rfl, hostCommand_orderly h .get seq params⟩
  | broadcast seq params => exact ⟨_, rfl, hostCommand_orderly h .broadcast seq params⟩
  | cancel seq params => exact ⟨_, rfl, hostCommand_orderly h .cancel seq params⟩
  | queueQuery seq params => exact ⟨_, rfl, hostCommand_orderly h .queueQuery seq params⟩
  | cachedResponse seq body | commandCodeUnknown seq body =>
    refine ⟨_, rfl, whenRunning_orderly h fun run => ?_⟩
    split
    · exact run.receiveCommand _
    · exact run
  | strayByte ch =>
    refine ⟨_, rfl, whenRunning_orderly h fun run => ?_⟩
    repeat' split
    · exact (run.counted _).withHrx _
    · exact run
    · exact run
  | badLength _ | framePauseTimeout =>
    refine ⟨_, rfl, whenRunning_orderly h fun run => ?_⟩
    repeat' split
    · exact run
    · exact (run.counted _).toHunting
    · exact run
  | brokenFrame ch =>
    refine ⟨_, rfl, whenRunning_orderly h fun run => ?_⟩
    repeat' split
    · exact run
    · exact (run.counted _).toHunting.withHrx _
    · exact run
  | crcError b =>
    refine ⟨_, rfl, whenRunning_orderly h fun run => ?_⟩
    repeat' split
    · exact run
    · exact run
    · exact (run.counted _).toHunting
  | leadByte =>
    refine ⟨_, rfl, whenRunning_orderly h fun run => ?_⟩
    repeat' split
    · exact run.withHost rfl rfl rfl rfl id
    · exact run
    · exact run
  | frameByte b =>
    refine ⟨_, rfl, whenRunning_orderly h fun run => ?_⟩
    split
    · exact run
    · next assembling =>
      split
      · next fills =>
        simp only [Bool.and_eq_true, Bool.not_eq_true'] at fills
        have fits := run.receiver
        rw [assembling] at fits
        exact run.withHost (Receiver.fits_append fits fills.1.2 fills.2) rfl rfl rfl id
      · exact run
  | commandFrame b =>
    refine ⟨_, rfl, whenRunning_orderly h fun run => ?_⟩
    repeat' split
    · exact run
    · exact run.offer _
    · exact run
  | ackFrame b =>
    refine ⟨_, rfl, whenRunning_orderly h fun run => ?_⟩
    repeat' split
    · exact run
    · exact Tidy.goodFrame (s := s.applyAck _) run.of_line
    · exact run
  | unknownKindFrame b =>
    refine ⟨_, rfl, whenRunning_orderly h fun run => ?_⟩
    repeat' split
    · exact run
    · exact (run.counted fun c => { c with strayBytes := satInc c.strayBytes }).goodFrame
    · exact run
  | lineBreak => exact execLineBreak_orderly h
  | responseFrameBegin =>
    refine ⟨_, rfl, whenRunning_orderly h fun run => ?_⟩
    split
    · next r _ slot =>
      exact Steady.tidy_of_response ⟨run.held, run.receiver, run.settings⟩ slot (run.cached r slot)
    · exact run
    · exact run
  | responseDelivered =>
    refine ⟨_, rfl, whenRunning_orderly h fun run => ?_⟩
    repeat' split
    · exact run
    · exact run.responseDelivered
    · exact run
  | reportFrameBegin =>
    refine ⟨_, rfl, whenRunning_orderly h fun run => ?_⟩
    split
    · next begun => exact run.reportFrameBegin begun
    · exact run
  | reportFrameEnd =>
    refine ⟨_, rfl, whenRunning_orderly h fun run => ?_⟩
    repeat' split
    · exact run
    · exact run.withHost run.receiver rfl rfl rfl fun _ => rfl
    · exact run
  | ackTimerExpiry =>
    refine ⟨_, rfl, whenRunning_orderly h fun run => ?_⟩
    repeat' split
    · exact run
    · exact run.of_line
    · exact run
  | deadlineExpiry _ | dueTimeReached _ | latenessSaturated _ | sendStart | callCharacterSent | echoReceived _
  | echoTimeout | replyTimeout | telegramStart _ | telegramCharacter _ | telegramFault _ | telegramPauseTimeout
  | telegramComplete _ | trailingCharacter _ | framerGapReached | lrxIdleReturn | broadcastSettled
  | silenceTimerExpiry | startBitConfirmed | lineQuietSaturated =>
    refine ⟨_, rfl, whenRunning_orderly h fun run => ?_⟩
    repeat' split
    all_goals exact run.of_line
  | nrstAssert => exact nrstAssert
  | nrstRelease => exact nrstRelease
  | powerUp => exact powerUp
  | supplyFail => exact supplyFail
  | hrxIdleReturn => exact ⟨_, rfl, h.orderly.withHrx _⟩

/-- R181: the passage of time alone. -/
theorem elapse_orderly (h : DeviceOk s) (n : Nat) : Orderly (s.elapse n) := by
  unfold State.elapse
  split
  · exact h.orderly
  · next held =>
    have run := h.tidy (by simpa using held)
    refine Tidy.orderly ⟨⟨run.held, run.receiver, run.settings⟩, run.cached, fun none => ?_⟩
    obtain ⟨ready, rate, restart, idle⟩ := run.free none
    refine ⟨ready, rate, restart, ?_⟩
    unfold HostLink.sendingResponse at idle ⊢
    cases tx : s.host.tx with
    | none => rfl
    | some frame => rw [tx] at idle; exact idle

end Steps

/-- Settles O60: no row lets a command, a rate switch or a restart wait without the response it waits for, takes a
parameter out of its range, or leaves work in a device held in reset. -/
theorem everyStepKeepsHostSideAndParameters : Obligations.EveryStepKeepsHostSideAndParameters := by
  intro s t ok run
  suffices kept : Orderly t from ⟨kept.hostSide, kept.parameters, kept.held⟩
  unfold step at run
  split at run
  · cases run
    exact elapse_orderly ok 1
  · next c rest _ =>
    obtain ⟨u, next, kept⟩ := exec_orderly (s := { s with pending := rest }) ok c
    rw [next] at run
    cases run
    exact kept

end Sys2Proof.Machine
end

section
/-!
SUPPORT. The four line commands.
-/

namespace Sys2Proof.Machine

/-! ### What the line commands share (R117, R121, R173, R176) -/

section Row

variable {s₀ s : State} {seq : Byte}

/-- R176: a line command's response carries, after its status, the role the command leaves. -/
theorem exec_lineCommand {name : CommandName} {params : List Byte} {a : Answer} (takes : s₀.takes seq s)
    (answer : s.perform name params = a.withRole) :
    exec (name.row seq params) s₀ =
      .next (a.state.respond ⟨seq, [name.code, a.status.code, a.state.engine.role.code]⟩) := by
  rw [exec_row_eq name seq params takes, answer]
  rfl

/-- R117, R121, R189: a line command that makes the device MASTER does so, selection included, before its response. -/
theorem exec_becomesMaster {name : CommandName} {master : State} (takes : s₀.takes seq s)
    (answer : s.perform name [] = (accept s.becomeMaster).withRole)
    (hmaster : master =
      { s with
        engine := { s.engine with role := .master }
        fallback :=
          if s.fallback.limit ≠ 0 ∧ s.fallback.pending = false then { s.fallback with timer := some s.clock }
          else s.fallback }) :
    exec (name.row seq []) s₀ = .next (master.select.respond ⟨seq, [name.code, 0x00#8, 0x01#8]⟩) := by
  have same : s.becomeMaster = master.select := by rw [State.becomeMaster_eq, hmaster]
  have role : master.select.engine.role = .master := by rw [State.select_role, hmaster]
  rw [exec_lineCommand takes answer, accept_state, same, role]
  rfl

end Row

/-! ### LINE_SETUP (R116) -/

theorem layoutLineSetup_parts (code gap reply p1 p0 q1 q0 : Byte) :
    layoutLineSetup [code, gap, reply, p1, p0, q1, q0] = some ⟨code, gap, reply, halfOf p1 p0, halfOf q1 q0⟩ := rfl

@[simp] theorem LineEngine.setParams_role (p : LineParams) (g : LineEngine) : (g.setParams p).role = g.role := by
  unfold LineEngine.setParams
  split <;> rfl

/-- Settles O11: the five parameters are read, judged, and stored in OFF. -/
theorem lineSetupStoresParametersInOff : Obligations.LineSetupStoresParametersInOff := by
  intro s₀ s seq code gap reply p1 p0 q1 q0 rate inRange params takes hrate hrange hparams
  have layout := layoutLineSetup_parts code gap reply p1 p0 q1 q0
  have parts : ∀ p, rangeLineSetup ⟨code, gap, reply, halfOf p1 p0, halfOf q1 q0⟩ = some p ↔
      rate = some p.rate ∧ p = params p.rate ∧ inRange := by
    intro p
    rw [rangeLineSetup_eq_some, LineRate.ofCode?_eq, ← hrate, hparams, halfOf_toNat, halfOf_toNat]
    refine and_congr_right fun _ => and_congr_right fun read => ?_
    rw [hrange, read]
    exact Iff.rfl
  have carried : ∀ r, rate = some r → inRange →
      rangeLineSetup ⟨code, gap, reply, halfOf p1 p0, halfOf q1 q0⟩ = some (params r) := by
    intro r known range
    have same : (params r).rate = r := by rw [hparams]
    exact (parts _).2 ⟨by rw [same]; exact known, by rw [same], range⟩
  refine ⟨fun r known range off => ?_, fun r known range notOff => ?_, fun out => ?_⟩
  · refine (exec_lineCommand (name := .lineSetup) takes (a := accept (s.withEngine (LineEngine.setParams (params r))))
      ?_).trans ?_
    · exact congrArg Answer.withRole ((checked_carried layout (carried r known range)).trans (by rw [off]))
    · rw [accept_state, State.withEngine_engine, LineEngine.setParams_role, off, hparams]
      rfl
  · refine exec_lineCommand (name := .lineSetup) takes (a := refuse .wrongRole s) ?_
    refine congrArg Answer.withRole ((checked_carried layout (carried r known range)).trans ?_)
    cases role : s.engine.role with
    | off => exact absurd role notOff
    | master | stopping | yielded => rfl
  · refine exec_lineCommand (name := .lineSetup) takes (a := refuse .outOfRange s) ?_
    refine congrArg Answer.withRole (checked_outOfRange layout (Option.eq_none_iff_forall_ne_some.2 fun p some => ?_))
    obtain ⟨known, -, range⟩ := (parts p).1 some
    rcases out with unknown | outside
    · rw [unknown] at known
      cases known
    · exact outside range

/-! ### LINE_START (R117) -/

/-- Settles O12: OFF becomes MASTER, every other role is refused. -/
theorem lineStartTakesTheLine : Obligations.LineStartTakesTheLine := by
  intro s₀ s master seq takes hmaster
  refine ⟨fun off => ?_, fun notOff => ?_⟩
  · refine exec_becomesMaster (name := .lineStart) takes (congrArg Answer.withRole ?_) hmaster
    rw [bare, off]
  · refine exec_lineCommand (name := .lineStart) takes (a := refuse .wrongRole s) (congrArg Answer.withRole ?_)
    rw [bare]
    cases role : s.engine.role with
    | off => exact absurd role notOff
    | master | stopping | yielded => rfl

/-! ### LINE_STOP (R118, R119, R127) -/

/-- R187: without an exchange and out of MASTER nothing is left of the fallback. -/
theorem Fallback.idle_of_fits {g : LineEngine} {f : Fallback} (fits : f.fits g = true) (role : g.role ≠ .master)
    (idle : g.exchange = none) : { f with timer := none, pending := false, phase := .none } = f := by
  obtain ⟨limit, payload, timer, pending, phase⟩ := f
  have quiet : g.onFallback = false := by rw [LineEngine.onFallback, idle]
  simp only [Fallback.fits, beq_eq_false_iff_ne.2 role, quiet, Bool.and_eq_true] at fits
  obtain ⟨⟨stopped, calm⟩, left⟩ := fits
  have timer : timer = none := by simpa using stopped
  have pending : pending = false := by simpa using calm
  subst timer pending
  cases phase with
  | none => rfl
  | awaitingExchange | broadcast => simp at left

/-- R114, R119: in YIELDED only the role is left to change. -/
theorem State.leaveMaster_of_yielded {s : State} (line : LineOk s) (held : s.held = false)
    (yielded : s.engine.role = .yielded) :
    s.leaveMaster .off .none = { s with engine := { s.engine with role := .off } } := by
  obtain ⟨role, -, -, fallback⟩ := line held
  have idle : s.engine.exchange = none := by
    cases on : s.engine.exchange with
    | none => rfl
    | some x => rw [yielded, on] at role; cases role
  have kept := Fallback.idle_of_fits fallback (by rw [yielded]; exact LineRole.noConfusion) idle
  exact congrArg (fun f => ({ s with engine := { s.engine with role := .off }, fallback := f } : State)) kept

theorem State.stopMaster_idle {s : State} (idle : s.engine.exchange = none) :
    s.stopMaster = s.leaveMaster .off .none := by
  rw [State.stopMaster, idle]

/-- R118: past GAP the exchange goes on, in STOPPING. -/
theorem State.stopMaster_pastGap {s : State} {x : Exchange} (on : s.engine.exchange = some x)
    (past : x.phase ≠ .gap) :
    s.stopMaster = s.leaveMaster .stopping (if x.record.origin = .fallback then .broadcast else .none) := by
  rw [State.stopMaster, on]
  dsimp only
  cases phase : x.phase with
  | gap => exact absurd phase past
  | sending _ _ _ | await _ _ | receiving | settle => rfl

/-- Settles O13: what the role and the exchange state leave LINE_STOP to do. -/
theorem lineStopLeavesTheLine : Obligations.LineStopLeavesTheLine := by
  intro s₀ s seq takes
  have stops : ∀ t, s.lineStop [] = (accept t).withRole →
      exec (.lineStop seq []) s₀ = .next (t.respond ⟨seq, [0x22#8, 0x00#8, t.engine.role.code]⟩) :=
    fun t answer => exec_lineCommand (name := .lineStop) takes answer
  have held : s.held = false := by
    obtain ⟨⟨⟨running, -⟩, -⟩, rfl⟩ := takes
    rw [State.goodFrame_held, running]
  refine ⟨fun off => ?_, fun stopping => ?_, fun yielded line => ?_, fun master idle => ?_,
    fun x master on past => ?_⟩
  · rw [stops s (by rw [State.lineStop, bare, off]), off]
    rfl
  · rw [stops s (by rw [State.lineStop, bare, stopping]), stopping]
    rfl
  · rw [stops _ (by rw [State.lineStop, bare, yielded]), State.leaveMaster_of_yielded line held yielded]
    rfl
  · rw [stops _ (by rw [State.lineStop, bare, master]), State.stopMaster_idle idle]
    rfl
  · rw [stops _ (by rw [State.lineStop, bare, master]), State.stopMaster_pastGap on past]
    rfl

/-! ### LINE_RESUME (R121, R122) -/

/-- Settles O15: the line quiet for the quiet interval lets a YIELDED device resume. -/
theorem lineResumeNeedsAQuietLine : Obligations.LineResumeNeedsAQuietLine := by
  intro s₀ s master seq quietMs quiet takes hquietMs hquiet hmaster
  have measured : s.engine.quietMs s.clock = quietMs := hquietMs.symm
  have judged : (s.engine.isQuiet && decide (s.engine.params.quietInterval ≤ s.engine.quietMs s.clock)) = true ↔
      quiet := by
    rw [hquiet, measured]
    simp [LineEngine.isQuiet, and_assoc]
  refine ⟨fun yielded enough => ?_, fun yielded early => ?_, fun notYielded => ?_⟩
  · refine exec_becomesMaster (name := .lineResume) takes (congrArg Answer.withRole ?_) hmaster
    rw [bare, yielded]
    exact if_pos (judged.2 enough)
  · refine (exec_lineCommand (name := .lineResume) takes (a := refuse .lineActive s)
      (congrArg Answer.withRole ?_)).trans ?_
    · rw [bare, yielded]
      exact if_neg (mt judged.1 early)
    · rw [refuse_state, yielded]
      rfl
  · refine exec_lineCommand (name := .lineResume) takes (a := refuse .wrongRole s) (congrArg Answer.withRole ?_)
    rw [bare]
    cases role : s.engine.role with
    | yielded => exact absurd role notYielded
    | off | master | stopping => rfl

end Sys2Proof.Machine
end

section
/-!
SUPPORT. A report handed to the Report Unit, and how many reports its queue can hold.
-/

namespace Sys2Proof.Machine

/-! ### A report handed over (R136 to R140, R151) -/

/-- R136, R151: a report handed over takes its place, and the queue then holds at least one entry. -/
theorem State.putReport_eq (r : Report) (s : State) :
    s.putReport r =
      { s with reports := { s.reports with queue := placeReport r s.reports.queue, attn := true } } := by
  have attn : (!(placeReport r s.reports.queue).isEmpty) = true := by
    simpa using placeReport_ne_nil r s.reports.queue
  rw [State.putReport, State.withReports, ReportUnit.setQueue, attn]

/-- Settles O54: the place a report takes, and then what merging makes of each kind. -/
theorem reportsMergeOrJoinTheTail : Obligations.ReportsMergeOrJoinTheTail := by
  intro s new
  refine ⟨fun apart => ?_, fun before after old merged queue apart merges => ?_, ?_, ?_, ?_, ?_⟩
  · rw [State.putReport_eq, placeReport_append apart]
  · rw [State.putReport_eq, queue, placeReport_merge apart merges]
  · intro a b n n' image image' m m'
    rw [← satIncByte_eq]
    rfl
  · intro a b f t f' t' r r' i i' m m'
    rw [← satIncByte_eq]
    rfl
  · intro f t f' t' r r' d d' m m'
    rw [← satIncByte_eq]
    rfl
  · intro old tag kind result attempts last data cause revision
    cases old <;> exact ⟨rfl, rfl⟩

/-! ### The most reports there can be (R142) -/

/-- R137: what a report that merges is about: the station of an IMAGE, the station of a STATION report, or the line. -/
def ReportEntry.subject? (e : ReportEntry) : Option (Addr ⊕ Addr ⊕ Unit) :=
  match e.report with
  | .ready _ _ => none
  | .result _ _ _ _ _ _ => none
  | .image a _ _ _ => some (.inl a)
  | .station a _ _ _ _ _ => some (.inr (.inl a))
  | .line _ _ _ _ _ => some (.inr (.inr ()))

/-- R137: two reports that do not merge have no subject in common. -/
theorem ReportEntry.subject?_ne {old new : ReportEntry} {x : Addr ⊕ Addr ⊕ Unit}
    (apart : old.report.merge? new.report = none) (subject : old.subject? = some x) : new.subject? ≠ some x := by
  intro same
  obtain ⟨old, oldStatus⟩ := old
  obtain ⟨new, newStatus⟩ := new
  cases old with
  | ready _ _ | result _ _ _ _ _ _ => cases subject
  | image _ _ _ _ | station _ _ _ _ _ _ | line _ _ _ _ _ =>
    cases subject
    -- of the five kinds only this one has such a subject
    cases new <;> cases same
    simp [Report.merge?] at apart

/-- R130: every report is a RESULT, a READY or one with a subject. -/
theorem length_eq_results_ready_subjects (queue : List ReportEntry) :
    queue.length =
      (queue.filterMap ReportEntry.resultTag?).length + queue.countP (fun e => e.report.isReady) +
        (queue.filterMap ReportEntry.subject?).length := by
  induction queue with
  | nil => rfl
  | cons e rest ih =>
    obtain ⟨report, status⟩ := e
    cases report <;>
      simp [List.filterMap_cons, ReportEntry.resultTag?, ReportEntry.subject?, Report.isReady, ih] <;> omega

/-- R142: reports of which no two merge speak of 31 + 31 + 1 subjects at most. -/
theorem subjects_length_le {queue : List ReportEntry}
    (apart : queue.Pairwise fun old new => old.report.merge? new.report = none) :
    (queue.filterMap ReportEntry.subject?).length ≤ 63 := by
  have nodup : (queue.filterMap ReportEntry.subject?).Nodup :=
    List.pairwise_filterMap.2 (apart.imp fun apart _ older _ newer same =>
      ReportEntry.subject?_ne apart older (same ▸ newer))
  simpa using nodup.length_le_card

/-- R30, R132: there are no more RESULT reports than live requests. -/
theorem CallQueueOk.resultTags_length_le {s : State} (h : CallQueueOk s) : s.resultTags.length ≤ 16 := by
  obtain ⟨budget, -, -, -, -, -, -, reported⟩ := h
  calc s.resultTags.length
      = s.reportedTags.length := reported.length_eq
    _ ≤ s.requests.length := by
        rw [State.reportedTags, List.length_map]
        exact List.length_filter_le _ _
    _ ≤ 16 := budget

/-- Settles O55: 4 SENT entries at most, and of the UNSENT ones 16 RESULT reports, one READY and 63 with a subject. -/
theorem reportQueueHoldsAtMost84 : Obligations.ReportQueueHoldsAtMost84 := by
  intro s calls reports
  obtain ⟨front, back, order, -⟩ := ReportUnit.fits_iff.1 reports
  have results := calls.resultTags_length_le
  rw [State.resultTags, order.queue, List.filterMap_append, List.length_append] at results
  have ready := order.ready
  rw [order.queue, List.countP_append] at ready
  have subjects := subjects_length_le order.distinct
  have unsent := length_eq_results_ready_subjects back
  have window := order.window
  rw [order.queue, List.length_append]
  omega

end Sys2Proof.Machine
end

section
/-!
SUPPORT. Acknowledgements and the ack timer: where in the queue the entry of an ACK stands, and what is left to resend.
-/

namespace Sys2Proof.Machine

/-! ### The SENT entry with a number (R129, R143) -/

/-- R143: the numbers of fewer than 256 SENT entries are distinct. -/
theorem sentNumbers_nodup (next : Byte) {n : Nat} (few : n < 256) : (sentNumbers next n).Nodup := by
  refine List.Nodup.map_on (fun i hi j hj same => ?_) List.nodup_range
  rw [List.mem_range] at hi hj
  have numbers : natByte (n - i) = natByte (n - j) := (BitVec.sub_right_inj _).1 (SendState.sent.inj same)
  have values := congrArg BitVec.toNat numbers
  simp only [natByte, BitVec.toNat_ofNat] at values
  omega

/-- R143: no two SENT entries have the same number. -/
theorem ReportUnit.Ordered.statuses_ne {u : ReportUnit} {older newer back : List ReportEntry}
    (h : u.Ordered (older ++ newer) back) {x y : ReportEntry} (hx : x ∈ older) (hy : y ∈ newer) :
    x.status ≠ y.status := by
  have once : ((older ++ newer).map fun e => e.status).Nodup := by
    rw [h.numbers]
    exact sentNumbers_nodup _ (Nat.lt_of_le_of_lt h.window (by decide))
  rw [List.map_append, List.nodup_append] at once
  obtain ⟨-, -, apart⟩ := once
  exact apart _ (List.mem_map_of_mem hx) _ (List.mem_map_of_mem hy)

/-- R129: everything older than a SENT entry is SENT. -/
theorem ReportUnit.Ordered.front_of_sent {u : ReportUnit} {front back older rest : List ReportEntry} {e : ReportEntry}
    (h : u.Ordered front back) (queue : u.queue = older ++ e :: rest) (sent : e.status.isSent = true) :
    ∃ kept, front = older ++ e :: kept ∧ rest = kept ++ back := by
  have notBack : e ∉ back := fun mem => by simp [h.unsent e mem] at sent
  rcases List.append_eq_append_iff.1 (h.queue.symm.trans queue) with ⟨between, -, tail⟩ | ⟨taken, hfront, tail⟩
  · exact absurd (by rw [tail]; simp) notBack
  · cases taken with
    | nil => exact absurd (by rw [← List.nil_append back, ← tail]; simp) notBack
    | cons x kept =>
      obtain ⟨rfl, rfl⟩ := List.cons.inj tail
      exact ⟨kept, hfront, rfl⟩

/-- R145: of the SENT entries an ACK takes those up to its own; the resend point is among them unless it is left. -/
theorem ReportUnit.Ordered.any_removed {u : ReportUnit} {removed kept back : List ReportEntry}
    (h : u.Ordered (removed ++ kept) back) {q : Byte} (held : ∃ e ∈ removed ++ kept, e.status = .sent q) :
    removed.any (ReportEntry.sentAs q) = !(kept ++ back).any (ReportEntry.sentAs q) := by
  have sentAs : ∀ x : ReportEntry, x.sentAs q = true ↔ x.status = .sent q := fun x => by
    simp [ReportEntry.sentAs]
  rw [Bool.eq_iff_iff, Bool.not_eq_true', ← Bool.not_eq_true, List.any_eq_true, List.any_eq_true]
  constructor
  · rintro ⟨x, hx, xAs⟩ ⟨y, hy, yAs⟩
    rw [sentAs] at xAs yAs
    rcases List.mem_append.1 hy with hy | hy
    · exact h.statuses_ne hx hy (xAs.trans yAs.symm)
    · have := h.unsent y hy
      rw [yAs] at this
      cases this
  · intro left
    obtain ⟨x, hx, status⟩ := held
    rcases List.mem_append.1 hx with hx | hx
    · exact ⟨x, hx, (sentAs x).2 status⟩
    · exact absurd ⟨x, List.mem_append_left _ hx, (sentAs x).2 status⟩ left

/-! ### An ACK (R145, R146, R51) -/

/-- R145: an ACK of a SENT entry splits the queue behind that entry. -/
theorem ReportUnit.fits.splitAck_eq {u : ReportUnit} (h : u.fits) {older rest : List ReportEntry} {e : ReportEntry}
    {q : Byte} (queue : u.queue = older ++ e :: rest) (status : e.status = .sent q) :
    splitAck q u.queue = some (older ++ [e], rest) := by
  obtain ⟨front, back, order, -⟩ := ReportUnit.fits_iff.1 h
  obtain ⟨kept, rfl, rfl⟩ := order.front_of_sent queue (by rw [status]; rfl)
  rw [queue]
  refine splitAck_of_mem status fun x hx => ⟨order.sent x (List.mem_append_left _ hx), ?_⟩
  rw [← status]
  exact order.statuses_ne hx List.mem_cons_self

/-- R145: the Report Unit after such an ACK, told by what is left in the queue. -/
theorem ReportUnit.fits.acked_eq {u : ReportUnit} (h : u.fits) {older rest : List ReportEntry} {e : ReportEntry}
    (queue : u.queue = older ++ e :: rest) (sent : e.status.isSent = true) (now : Clock) :
    u.acked now (older ++ [e]) rest =
      { u with
        queue := rest
        attn := !rest.isEmpty
        roundCount := 0
        ackTimer := if rest.any (fun e => e.status.isSent) then some ⟨now, u.ackTimeout⟩ else none
        resendPoint :=
          match u.resendPoint with
          | none => none
          | some q => if rest.any (ReportEntry.sentAs q) then some q else oldestSent rest } := by
  obtain ⟨front, back, order, pace⟩ := ReportUnit.fits_iff.1 h
  obtain ⟨kept, rfl, rfl⟩ := order.front_of_sent queue sent
  rw [List.append_cons] at order pace
  rw [ReportUnit.acked, oldestSent_isSome]
  cases point : u.resendPoint with
  | none => rfl
  | some q =>
    obtain ⟨-, held⟩ := pace.resend q point
    dsimp only
    rw [order.any_removed held]
    cases (kept ++ back).any (ReportEntry.sentAs q) <;> rfl

theorem exec_ackFrame {s : State} {b : Byte} {f : ReceivedFrame} (running : s.held = false)
    (completed : s.host.completedBy? b = some f) (good : f.crcGood = true) (kind : f.kind = kindAck) :
    exec (.ackFrame b) s = .next (s.applyAck f.seq).goodFrame := by
  show execAckFrame b s = _
  rw [execAckFrame, whenRunning_of_running running, completed]
  dsimp only
  rw [good, kind]
  rfl

/-- Settles O31: the ACK splits the queue at the entry it names, or names none and is counted. -/
theorem ackRemovesEveryReportUpToIt : Obligations.AckRemovesEveryReportUpToIt := by
  intro s acked b f running completed good kind fits
  rw [exec_ackFrame running completed good kind]
  refine ⟨fun older rest e queue status hacked => ?_, fun unknown => ?_⟩
  · have sent : e.status.isSent = true := by rw [status]; rfl
    rw [State.applyAck, fits.splitAck_eq queue status, hacked]
    dsimp only
    rw [State.withReports, fits.acked_eq queue sent]
    rfl
  · rw [State.applyAck, splitAck_of_not_mem unknown, ← satInc_eq]
    rfl

/-! ### The ack timer (R147, R148) -/

/-- R147: while the ack timer runs there is a SENT entry, and the oldest one is where a round begins. -/
theorem ReportUnit.fits.oldestSent_eq {u : ReportUnit} (h : u.fits) {timer : AckTimer}
    (timing : u.ackTimer = some timer) :
    ∃ e q, u.sentEntries.head? = some e ∧ e.status = .sent q ∧ oldestSent u.queue = some q := by
  obtain ⟨front, back, order, pace⟩ := ReportUnit.fits_iff.1 h
  obtain ⟨-, nonempty⟩ := pace.timer.1 (by rw [timing]; rfl)
  obtain ⟨entries, -⟩ := order.entries
  rw [entries, order.queue]
  cases front with
  | nil => exact absurd rfl nonempty
  | cons e front =>
    obtain ⟨report, status⟩ := e
    cases status with
    | unsent => cases order.sent ⟨report, .unsent⟩ List.mem_cons_self
    | sent q => exact ⟨_, q, rfl, rfl, rfl⟩

theorem exec_ackTimerExpiry {s : State} {timer : AckTimer} (running : s.held = false)
    (timing : s.reports.ackTimer = some timer) (expired : timer.timeout ≤ (s.clock - timer.start).toNat) :
    exec .ackTimerExpiry s = .next (s.withReports (ReportUnit.ackExpired s.clock)) := by
  show execAckTimerExpiry s = _
  rw [execAckTimerExpiry, whenRunning_of_running running, timing]
  exact congrArg Host.Outcome.next (if_pos expired)

/-- Settles O35: the round count decides between another round and STALLED. -/
theorem ackTimerRetransmitsThenStalls : Obligations.AckTimerRetransmitsThenStalls := by
  intro s timer running timing expired fits
  rw [exec_ackTimerExpiry running timing expired, State.withReports, ReportUnit.ackExpired]
  refine ⟨fun rounds => ?_, fun rounds => ?_⟩
  · obtain ⟨e, q, head, status, oldest⟩ := fits.oldestSent_eq timing
    refine ⟨e, q, head, status, ?_⟩
    rw [if_pos (Nat.succ_lt_succ rounds), oldest]
  · rw [if_neg (by rw [rounds]; decide)]

end Sys2Proof.Machine
end

section
/-!
SUPPORT. The transmitter: the report the Report Unit offers, and the frames that begin and end on HTX.
-/

namespace Sys2Proof.Machine

/-! ### The report offered (R143, R144, R147) -/

/-- R143: the resend point moves on to the SENT entry behind. -/
theorem nextSent_eq {q : Byte} {earlier later : List ReportEntry} {e : ReportEntry} (status : e.status = .sent q)
    (first : ∀ x ∈ earlier, x.status ≠ .sent q) : nextSent q (earlier ++ e :: later) = oldestSent later := by
  induction earlier with
  | nil => simp [nextSent, ReportEntry.sentAs, status]
  | cons x earlier ih =>
    obtain ⟨notThis, others⟩ := List.forall_mem_cons.1 first
    simp [nextSent, ReportEntry.sentAs, notThis, ih others]

theorem ReportUnit.sentEntry?_eq {u : ReportUnit} {q : Byte} {earlier later : List ReportEntry} {e : ReportEntry}
    (queue : u.queue = earlier ++ e :: later) (status : e.status = .sent q)
    (first : ∀ x ∈ earlier, x.status ≠ .sent q) : u.sentEntry? q = some e := by
  rw [ReportUnit.sentEntry?, queue, List.find?_eq_some_iff_append]
  exact ⟨by simp [ReportEntry.sentAs, status], earlier, later, rfl,
    fun x hx => by simpa [ReportEntry.sentAs] using first x hx⟩

/-- R143: a retransmission round offers the entry of the resend point again. -/
theorem ReportUnit.beginFrame_resend {u : ReportUnit} {q : Byte} {earlier later : List ReportEntry} {e : ReportEntry}
    (now : Clock) (flowing : u.link = .flowing) (point : u.resendPoint = some q)
    (queue : u.queue = earlier ++ e :: later) (status : e.status = .sent q)
    (first : ∀ x ∈ earlier, x.status ≠ .sent q) :
    u.beginFrame now =
      some (q, e.report.body,
        { u with retransmissions := satInc u.retransmissions, resendPoint := oldestSent later }) := by
  rw [ReportUnit.beginFrame, flowing]
  dsimp only
  rw [point]
  dsimp only
  rw [ReportUnit.sentEntry?_eq queue status first, queue, nextSent_eq status first]
  rfl

/-- R143, R147: with no round in progress the oldest UNSENT entry is offered, and starts the ack timer where it is the
only SENT one. -/
theorem ReportUnit.beginFrame_new {u : ReportUnit} {sent later : List ReportEntry} {r : Report} (now : Clock)
    (flowing : u.link = .flowing) (noPoint : u.resendPoint = none)
    (queue : u.queue = sent ++ ⟨r, .unsent⟩ :: later) (front : ∀ x ∈ sent, x.status ≠ .unsent)
    (back : ∀ x ∈ later, x.status = .unsent) (room : sent.length < 4) :
    u.beginFrame now =
      some (u.nextSeq, r.body,
        { u with
          queue := sent ++ ⟨r, .sent u.nextSeq⟩ :: later
          attn := true
          nextSeq := u.nextSeq + 1
          ackTimer := if sent = [] then some ⟨now, u.ackTimeout⟩ else u.ackTimer }) := by
  have frontSent : ∀ x ∈ sent, x.status.isSent = true := fun x hx => by
    cases status : x.status with
    | unsent => exact absurd status (front x hx)
    | sent q => rfl
  have laterNot : later.filter (fun e => e.status.isSent) = [] :=
    List.filter_eq_nil_iff.2 fun x hx => by rw [back x hx]; exact Bool.false_ne_true
  have entries : u.sentEntries = sent := by
    rw [ReportUnit.sentEntries, queue, List.filter_append, List.filter_eq_self.2 frontSent,
      List.filter_cons_of_neg Bool.false_ne_true, laterNot, List.append_nil]
  rw [ReportUnit.beginFrame, flowing]
  dsimp only
  rw [noPoint]
  dsimp only
  rw [entries, if_pos room, queue, sendOldest_eq front]
  simp [ReportUnit.setQueue, flowing, noPoint]

/-- R143, R144: STALLED offers no report, nor does a full window outside a round. -/
theorem ReportUnit.beginFrame_none {u : ReportUnit} (now : Clock)
    (h : u.link = .stalled ∨ u.link = .flowing ∧ u.resendPoint = none ∧ 4 ≤ u.sentEntries.length) :
    u.beginFrame now = none := by
  rw [ReportUnit.beginFrame]
  rcases h with stalled | ⟨flowing, noPoint, full⟩
  · rw [stalled]
  · rw [flowing]
    dsimp only
    rw [noPoint]
    exact if_neg (Nat.not_lt.2 full)

/-! ### Frames on HTX (R165, R166) -/

theorem exec_responseFrameBegin {s : State} {r : Response} (running : s.held = false) (idle : s.host.tx = none)
    (waiting : s.unit.responseSlot = some r) :
    exec .responseFrameBegin s =
      .next { s with
        host := { s.host with tx := some ⟨.response, hostFrame 0x81#8 r.seq r.body, s.host.rate, 0⟩ } } := by
  show execResponseFrameBegin s = _
  rw [execResponseFrameBegin, whenRunning_of_running running, idle, waiting]
  rfl

/-- R165: no report begins before a response that waits. -/
theorem exec_reportFrameBegin_waiting {s : State} {r : Response} (running : s.held = false)
    (idle : s.host.tx = none) (waiting : s.unit.responseSlot = some r) : exec .reportFrameBegin s = .next s := by
  show execReportFrameBegin s = _
  rw [execReportFrameBegin, whenRunning_of_running running, idle, waiting]

theorem exec_reportFrameBegin_offered {s : State} {q : Byte} {body : List Byte} {u : ReportUnit}
    (running : s.held = false) (idle : s.host.tx = none) (free : s.unit.responseSlot = none)
    (offered : s.reports.beginFrame s.clock = some (q, body, u)) :
    exec .reportFrameBegin s =
      .next { s with
        reports := u
        host := { s.host with tx := some ⟨.report, hostFrame 0x82#8 q body, s.host.rate, 0⟩ } } := by
  show execReportFrameBegin s = _
  rw [execReportFrameBegin, whenRunning_of_running running, idle, free, offered]
  rfl

theorem exec_reportFrameBegin_none {s : State} (running : s.held = false)
    (offered : s.reports.beginFrame s.clock = none) : exec .reportFrameBegin s = .next s := by
  show execReportFrameBegin s = _
  rw [execReportFrameBegin, whenRunning_of_running running, offered]
  cases s.host.tx <;> cases s.unit.responseSlot <;> rfl

/-- R165, R166: the frame of a report ends once its bytes have had their time. -/
theorem exec_reportFrameEnd {s : State} {f : TxFrame} (running : s.held = false) (sending : s.host.tx = some f)
    (report : f.source = .report) (run : 160000000 * f.bytes.length ≤ f.elapsed * f.rate.bps) :
    exec .reportFrameEnd s = .next { s with host := { s.host with tx := none } } := by
  have ended : f.ended = true := by
    rw [TxFrame.ended, charTimesRun_eq]
    exact decide_eq_true run
  show execReportFrameEnd s = _
  rw [execReportFrameEnd, whenRunning_of_running running, sending]
  exact congrArg Host.Outcome.next (if_pos ⟨report, ended⟩)

/-- Settles O34: each row by what the Report Unit offers, then the bytes of a frame and of each kind of report. -/
theorem transmitterBeginsFrames : Obligations.TransmitterBeginsFrames := by
  intro s running
  refine ⟨fun r idle waiting => ⟨exec_responseFrameBegin running idle waiting,
      exec_reportFrameBegin_waiting running idle waiting⟩, ?_, ?_,
    fun blocked => exec_reportFrameBegin_none running (ReportUnit.beginFrame_none _ blocked),
    fun f => exec_reportFrameEnd running, ?_, fun cause revision => rfl, ?_, fun a length image merges => rfl, ?_,
    fun fromRole toRole reason detail merges => rfl⟩
  · intro q earlier later e idle free flowing point queue status first
    rw [← satInc_eq]
    exact exec_reportFrameBegin_offered running idle free
      (ReportUnit.beginFrame_resend _ flowing point queue status first)
  · intro sent later r idle free flowing noPoint queue front back room
    exact exec_reportFrameBegin_offered running idle free
      (ReportUnit.beginFrame_new _ flowing noPoint queue front back room)
  · rintro kind seq body covered rfl
    rfl
  · intro tag kind result attempts last data
    cases last <;> simp [Report.body, outcomeBytes, zeroBytes]
  · intro a fromState toState reason identity merges
    cases identity <;> rfl

end Sys2Proof.Machine
end

section
/-!
SUPPORT. The Host Link's commands: LINK_SETUP, and a COMMAND frame that is answered from the cache, waits in the ready
slot, meets an overrun or runs the command's own row.
-/

namespace Sys2Proof.Machine

/-! ### LINK_SETUP (R167) -/

theorem HostRate.ofCode?_eq (c : Byte) :
    HostRate.ofCode? c = [HostRate.r115200, .r230400, .r460800, .r921600][c.toNat]? := by
  revert c; decide

theorem rangeLinkSetup_eq_some {raw : Byte × Half} {p : LinkParams} :
    rangeLinkSetup raw = some p ↔
      HostRate.ofCode? raw.1 = some p.rate ∧ (20 ≤ raw.2.toNat ∧ raw.2.toNat ≤ 2000) ∧ p.ackTimeout = raw.2.toNat := by
  obtain ⟨rate, ms⟩ := p
  simp only [rangeLinkSetup, Option.bind_eq_bind, Option.bind_eq_some_iff, inRange_some, Option.some.injEq,
    LinkParams.mk.injEq]
  constructor
  · rintro ⟨r, known, n, ⟨rfl, range⟩, rfl, rfl⟩
    exact ⟨known, range, rfl⟩
  · rintro ⟨known, range, rfl⟩
    exact ⟨rate, known, _, ⟨rfl, range⟩, rfl, rfl⟩

/-- Settles O9: the body's three bytes are its two parts, and the range check decides. -/
theorem linkSetupStoresTimeoutAndPendingRate : Obligations.LinkSetupStoresTimeoutAndPendingRate := by
  intro s₀ s seq rate hi lo ms takes hms
  have layout : layoutLinkSetup [rate, hi, lo] = some (rate, halfOf hi lo) := rfl
  have timeout : (halfOf hi lo).toNat = ms := by rw [halfOf_toNat, hms]
  constructor
  · intro r code least most
    have known : HostRate.ofCode? rate = some r := by
      rcases code with ⟨rfl, rfl⟩ | ⟨rfl, rfl⟩ | ⟨rfl, rfl⟩ | ⟨rfl, rfl⟩ <;> rfl
    have inside : rangeLinkSetup (rate, halfOf hi lo) = some ⟨r, ms⟩ :=
      rangeLinkSetup_eq_some.2 ⟨known, by rw [timeout]; exact ⟨least, most⟩, timeout.symm⟩
    refine exec_accepted (name := .linkSetup) takes ?_
    rw [State.perform, State.linkSetup, checked_carried layout inside]
    rfl
  · intro outside
    have refused : rangeLinkSetup (rate, halfOf hi lo) = none := by
      rw [Option.eq_none_iff_forall_ne_some]
      intro p inside
      obtain ⟨known, ⟨least, most⟩, -⟩ := rangeLinkSetup_eq_some.1 inside
      dsimp only at known least most
      rw [HostRate.ofCode?_eq] at known
      obtain ⟨below, -⟩ := List.getElem?_eq_some_iff.1 known
      have below : rate.toNat < 4 := below
      omega
    refine exec_refused (name := .linkSetup) (status := .outOfRange) takes ?_
    rw [State.perform, State.linkSetup, checked_outOfRange layout refused]

/-! ### Whether HRX lets a frame in (R153, R169) -/

theorem HostLink.listening_of_high {h : HostLink} (high : h.hrx = .high) : h.listening = true := by
  rw [HostLink.listening, high]
  rfl

theorem HostLink.listening_of_low {h : HostLink} (low : h.hrx ≠ .high) : h.listening = false :=
  beq_eq_false_iff_ne.2 low

/-- R169: while HRX is low no byte completes a frame. -/
theorem HostLink.completedBy?_of_low {h : HostLink} (low : h.hrx ≠ .high) (b : Byte) : h.completedBy? b = none := by
  rw [HostLink.completedBy?, HostLink.listening_of_low low]
  cases h.receiver <;> rfl

theorem HostLink.high_of_completedBy? {h : HostLink} {b : Byte} {f : ReceivedFrame}
    (completed : h.completedBy? b = some f) : h.hrx = .high := by
  by_contra low
  rw [HostLink.completedBy?_of_low low] at completed
  cases completed

/-! ### The rows of a COMMAND frame (R158, R160, R162) -/

section Rows

variable {s : State} {seq : Byte} {body params : List Byte}

/-- A command's row offers its frame to the ready slot. -/
theorem exec_row_high (name : CommandName) (running : s.held = false) (high : s.host.hrx = .high) :
    exec (name.row seq params) s = .next (s.offer ⟨seq, name.code :: params⟩) := by
  rw [exec_row, hostCommand, whenRunning_of_running running, State.receiveCommand,
    if_pos (HostLink.listening_of_high high)]

theorem exec_row_low (name : CommandName) (running : s.held = false) (low : s.host.hrx ≠ .high) :
    exec (name.row seq params) s = .next s := by
  rw [exec_row, hostCommand, whenRunning_of_running running, State.receiveCommand, HostLink.listening_of_low low]
  rfl

theorem exec_cachedResponse (running : s.held = false) (high : s.host.hrx = .high)
    (cached : s.host.isCached seq = true) : exec (.cachedResponse seq body) s = .next (s.offer ⟨seq, body⟩) := by
  show execCachedResponse seq body s = _
  rw [execCachedResponse, whenRunning_of_running running, if_pos cached, State.receiveCommand,
    if_pos (HostLink.listening_of_high high)]

theorem exec_commandCodeUnknown (running : s.held = false) (high : s.host.hrx = .high)
    (unknown : namesNoCommand body = true) : exec (.commandCodeUnknown seq body) s = .next (s.offer ⟨seq, body⟩) := by
  show execCommandCodeUnknown seq body s = _
  rw [execCommandCodeUnknown, whenRunning_of_running running, if_pos unknown, State.receiveCommand,
    if_pos (HostLink.listening_of_high high)]

theorem exec_commandFrame {b : Byte} {f : ReceivedFrame} (running : s.held = false)
    (completed : s.host.completedBy? b = some f) (good : f.crcGood = true) (kind : f.kind = kindCommand) :
    exec (.commandFrame b) s = .next (s.offer ⟨f.seq, f.body⟩) := by
  show execCommandFrame b s = _
  rw [execCommandFrame, whenRunning_of_running running, completed]
  dsimp only
  rw [good, kind]
  rfl

/-- R163: a frame with the sequence of the last executed command, taken at once, is answered from the cache. -/
theorem State.offer_cached {cached : Response} (free : s.commandUnitFree) (held : s.host.cache = some cached)
    (body : List Byte) :
    s.offer ⟨cached.seq, body⟩ =
      { s.goodFrame with unit := { s.goodFrame.unit with responseSlot := some cached } } := by
  obtain ⟨-, -, ready, response⟩ := free
  rw [State.offer_of_free _ ready response, State.takeFrame, State.goodFrame_cache, held]
  exact if_pos rfl

end Rows

/-- Settles O25: each row offers its frame to a Command Unit that is free, whose take answers from the cache. -/
theorem cachedCommandsAreNotCarriedOut : Obligations.CachedCommandsAreNotCarriedOut := by
  rintro s₀ s cached free held rfl
  have ⟨running, high, _, _⟩ := free
  have same : s₀.host.isCached cached.seq = true := by simp [HostLink.isCached, held]
  refine ⟨fun name params => ?_, fun body => ?_⟩
  · rw [exec_row_high name running high, State.offer_cached free held]
  · rw [exec_cachedResponse running high same, State.offer_cached free held]

/-- Settles O26: with a response undelivered no take follows, so the frame is placed or discarded. -/
theorem commandsWaitOrOverrun : Obligations.CommandsWaitOrOverrun := by
  intro s name seq params waiting running
  refine ⟨exec_row_low name running, fun high undelivered => ?_⟩
  rw [exec_row_high name running high, State.offer_of_response _ undelivered, State.placeReady_eq]
  refine ⟨fun empty => ?_, fun f full => ?_⟩
  · simp only [State.withHost, empty]
  · simp only [State.withHost, full, satInc_eq]

/-! ### A COMMAND frame and its row (R158, R173) -/

/-- R173, R195: a code names a command exactly where it stands among the codes. -/
theorem CommandName.ofCode?_isNone (c : Byte) : (CommandName.ofCode? c).isNone = !commandCodes.contains c := by
  revert c; decide

theorem namesNoCommand_of_not_code {body : List Byte}
    (unknown : ∀ code rest, body = code :: rest → commandCodes.contains code = false) : namesNoCommand body = true := by
  cases body with
  | nil => rfl
  | cons code rest => rw [namesNoCommand, CommandName.ofCode?_isNone, unknown code rest rfl]; rfl

/-! ### The notice at the Report Unit (R149) -/

section Stall

variable {u : ReportUnit}

theorem oldestSent_of_first {sent later : List ReportEntry} {r : Report} {q : Byte}
    (front : ∀ e ∈ sent, e.status = .unsent) : oldestSent (sent ++ ⟨r, .sent q⟩ :: later) = some q := by
  induction sent with
  | nil => rfl
  | cons e sent ih =>
    obtain ⟨unsent, others⟩ := List.forall_mem_cons.1 front
    rw [List.cons_append, oldestSent, unsent]
    exact ih others

theorem oldestSent_of_unsent {queue : List ReportEntry} (unsent : ∀ e ∈ queue, e.status = .unsent) :
    oldestSent queue = none := by
  rw [Option.eq_none_iff_forall_ne_some]
  intro q oldest
  obtain ⟨e, mem, sent⟩ := oldestSent_mem oldest
  rw [unsent e mem] at sent
  cases sent

theorem ReportUnit.stallEnded_flowing (now : Clock) (flowing : u.link = .flowing) : u.stallEnded now = u := by
  rw [ReportUnit.stallEnded, flowing]

theorem ReportUnit.stallEnded_resends {q : Byte} (now : Clock) (stalled : u.link = .stalled)
    (oldest : oldestSent u.queue = some q) :
    u.stallEnded now =
      { u with link := .flowing, roundCount := 0, resendPoint := some q, ackTimer := some ⟨now, u.ackTimeout⟩ } := by
  rw [ReportUnit.stallEnded, stalled, oldest]

theorem ReportUnit.stallEnded_none (now : Clock) (stalled : u.link = .stalled) (unsent : oldestSent u.queue = none) :
    u.stallEnded now = { u with link := .flowing, roundCount := 0 } := by
  rw [ReportUnit.stallEnded, stalled, unsent]

end Stall

theorem State.goodFrame_reports (s : State) : s.goodFrame.reports = s.reports.stallEnded s.clock := by
  rw [State.goodFrame_eq]

/-- Settles O30: the frame's row and the command's own offer the same frame; the notice is then read off its blocks. -/
theorem commandFrameGivesNoticeAndRuns : Obligations.CommandFrameGivesNoticeAndRuns := by
  refine ⟨fun s b f running completed good kind => ?_, fun s => ⟨?_, ?_, fun flowing => ?_, fun stalled => ⟨?_, ?_⟩⟩⟩
  · have frame := exec_commandFrame running completed good kind
    have high := HostLink.high_of_completedBy? completed
    refine ⟨fun name params body => ⟨_, frame, ?_⟩, fun unknown => ⟨_, frame, ?_⟩⟩
    · rw [body]
      exact exec_row_high name running high
    · exact exec_commandCodeUnknown running high (namesNoCommand_of_not_code unknown)
  · rw [State.goodFrame_eq]
  · rw [State.goodFrame_eq]
  · rw [State.goodFrame_reports, ReportUnit.stallEnded_flowing _ flowing]
  · intro sent later q r queue front
    rw [State.goodFrame_reports,
      ReportUnit.stallEnded_resends _ stalled (by rw [queue]; exact oldestSent_of_first front)]
  · intro unsent
    rw [State.goodFrame_reports, ReportUnit.stallEnded_none _ stalled (oldestSent_of_unsent unsent)]

end Sys2Proof.Machine
end

section
/-!
SUPPORT. The Host Link's receiver: each byte, pause and frame that runs no command, and where a framing error leaves HRX.
-/

namespace Sys2Proof.Machine

/-! ### HRX after a framing error (R153, R169) -/

/-- R153: the data bits at 0 that stand last are those above the byte's highest 1. -/
theorem lastLowBits_spec (data : Byte) :
    lastLowBits data ≤ 8 ∧ data.toNat < 2 ^ (8 - lastLowBits data) ∧
      (lastLowBits data < 8 → 2 ^ (7 - lastLowBits data) ≤ data.toNat) := by
  revert data; decide

theorem lowHalfBits_eq (data : Byte) :
    lowHalfBits data = if lastLowBits data = 8 then 19 else 1 + 2 * lastLowBits data := by
  revert data; decide

/-- HRX as the statement tells it, from the falling edge that the byte's bits give. -/
theorem HrxLevel.eq_after {rate : HostRate} {ch : RxChar} {after : HrxLevel}
    (returned : ch.stop ≠ .errorHeld → after = .high)
    (low : ∀ zeros halfBits : Nat, ch.stop = .errorHeld → zeros ≤ 8 → ch.data.toNat < 2 ^ (8 - zeros) →
      (zeros < 8 → 2 ^ (7 - zeros) ≤ ch.data.toNat) → halfBits = (if zeros = 8 then 19 else 1 + 2 * zeros) →
      after = .low (halfBits * 16000000 / (2 * rate.bps)) false) :
    after = .after rate ch := by
  cases stop : ch.stop with
  | idle => rw [returned (by rw [stop]; decide), HrxLevel.after, stop]
  | errorReturned => rw [returned (by rw [stop]; decide), HrxLevel.after, stop]
  | errorHeld =>
    obtain ⟨most, above, highest⟩ := lastLowBits_spec ch.data
    rw [low _ _ stop most above highest (lowHalfBits_eq ch.data), HrxLevel.after, stop]

/-! ### Bytes and pauses (R156, R157) -/

section Bytes

variable {s : State} {ch : RxChar} {b : Byte} {bytes : List Byte} {ended : Clock}

theorem exec_leadByte (running : s.held = false) (high : s.host.hrx = .high)
    (hunting : s.host.receiver = .hunting) :
    exec .leadByte s = .next { s with host := { s.host with receiver := .assembling [] s.clock } } := by
  show execLeadByte s = _
  rw [execLeadByte, whenRunning_of_running running, hunting]
  exact congrArg Host.Outcome.next (if_pos (HostLink.listening_of_high high))

theorem exec_strayByte (running : s.held = false) (high : s.host.hrx = .high)
    (hunting : s.host.receiver = .hunting) (stray : ch.stop ≠ .idle ∨ ch.data ≠ 0xA7#8) :
    exec (.strayByte ch) s =
      .next { s with
        host :=
          { s.host with
            hrx := .after s.host.rate ch
            counters := { s.host.counters with strayBytes := satInc s.host.counters.strayBytes } } } := by
  have noLead : (!(ch.stop == .idle && ch.data == Config.leadByte)) = true := by
    rcases stray with stop | data
    · simp [stop]
    · simp [data]
  show execStrayByte ch s = _
  rw [execStrayByte, whenRunning_of_running running, hunting]
  dsimp only
  rw [HostLink.listening_of_high high, noLead]
  rfl

theorem exec_frameByte (running : s.held = false) (high : s.host.hrx = .high)
    (receiver : s.host.receiver = .assembling bytes ended) (before : crcLowNext bytes = false)
    (length : bytes = [] → lengthIsBad b = false) :
    exec (.frameByte b) s =
      .next { s with host := { s.host with receiver := .assembling (bytes ++ [b]) s.clock } } := by
  have inRange : (bytes.isEmpty && lengthIsBad b) = false := by
    cases bytes with
    | nil => exact length rfl
    | cons l rest => rfl
  show execFrameByte b s = _
  rw [execFrameByte, whenRunning_of_running running, receiver]
  dsimp only
  rw [HostLink.listening_of_high high, before, inRange]
  rfl

theorem exec_badLength (running : s.held = false) (high : s.host.hrx = .high)
    (receiver : s.host.receiver = .assembling [] ended) (bad : lengthIsBad b = true) :
    exec (.badLength b) s =
      .next { s with
        host :=
          { s.host with
            receiver := .hunting
            counters := { s.host.counters with badLengths := satInc s.host.counters.badLengths } } } := by
  show execBadLength b s = _
  rw [execBadLength, whenRunning_of_running running, receiver]
  dsimp only
  rw [HostLink.listening_of_high high, bad]
  rfl

theorem exec_brokenFrame (running : s.held = false) (high : s.host.hrx = .high)
    (receiver : s.host.receiver = .assembling bytes ended) (error : ch.stop ≠ .idle) :
    exec (.brokenFrame ch) s =
      .next { s with
        host :=
          { s.host with
            receiver := .hunting
            hrx := .after s.host.rate ch
            counters := { s.host.counters with brokenFrames := satInc s.host.counters.brokenFrames } } } := by
  show execBrokenFrame ch s = _
  rw [execBrokenFrame, whenRunning_of_running running, receiver]
  dsimp only
  rw [HostLink.listening_of_high high, bne_iff_ne.2 error]
  rfl

theorem exec_framePauseTimeout (running : s.held = false) (receiver : s.host.receiver = .assembling bytes ended) :
    exec .framePauseTimeout s =
      .next (
        if 20 < (s.clock - ended).toNat then
          { s with
            host :=
              { s.host with
                receiver := .hunting
                counters := { s.host.counters with brokenFrames := satInc s.host.counters.brokenFrames } } }
        else s) := by
  show execFramePauseTimeout s = _
  rw [execFramePauseTimeout, whenRunning_of_running running, receiver]
  rfl

end Bytes

/-! ### Complete frames that run no command (R158, R159) -/

section Frames

variable {s : State} {b : Byte} {f : ReceivedFrame}

theorem exec_crcError (running : s.held = false) (completed : s.host.completedBy? b = some f)
    (wrong : f.crcGood = false) :
    exec (.crcError b) s =
      .next { s with
        host :=
          { s.host with
            receiver := .hunting
            counters := { s.host.counters with crcErrors := satInc s.host.counters.crcErrors } } } := by
  show execCrcError b s = _
  rw [execCrcError, whenRunning_of_running running, completed]
  dsimp only
  rw [wrong]
  rfl

theorem exec_unknownKindFrame (running : s.held = false) (completed : s.host.completedBy? b = some f)
    (good : f.crcGood = true) (noCommand : f.kind ≠ kindCommand) (noAck : f.kind ≠ kindAck) :
    exec (.unknownKindFrame b) s =
      .next (State.goodFrame
        { s with
          host :=
            { s.host with
              counters := { s.host.counters with strayBytes := satInc s.host.counters.strayBytes } } }) := by
  show execUnknownKindFrame b s = _
  rw [execUnknownKindFrame, whenRunning_of_running running, completed]
  dsimp only
  rw [good, bne_iff_ne.2 noCommand, bne_iff_ne.2 noAck]
  rfl

end Frames

/-- R154, R157: the length byte in range, or a position before the CRC low byte. -/
theorem crcLowNext_of_before {b : Byte} {bytes : List Byte}
    (h : bytes = [] ∧ 2 ≤ b.toNat ∧ b.toNat ≤ 200 ∨ ∃ l rest, bytes = l :: rest ∧ bytes.length ≠ l.toNat + 2) :
    crcLowNext bytes = false ∧ (bytes = [] → lengthIsBad b = false) := by
  rcases h with ⟨rfl, least, most⟩ | ⟨l, rest, rfl, before⟩
  · exact ⟨rfl, fun _ => by simp [lengthIsBad]; omega⟩
  · exact ⟨beq_eq_false_iff_ne.2 before, fun empty => by cases empty⟩

/-- Settles O28: each row by its own lemma, with HRX after the byte and the raised counter read as the model has them. -/
theorem receiverCountsEachFault : Obligations.ReceiverCountsEachFault := by
  intro s counters raised hrxAfter running high hcounters hraised hafter
  have raises : ∀ c, raised c = satInc c := fun c => by rw [hraised, satInc_eq]
  have level : ∀ ch after, hrxAfter ch after → after = .after s.host.rate ch := fun ch after h =>
    HrxLevel.eq_after ((hafter ch after).1 h).1 ((hafter ch after).1 h).2
  simp only [raises, hcounters]
  refine ⟨exec_leadByte running high, ?_, ?_, ?_, ?_, ?_, ?_, ?_⟩
  · intro ch after hunting stray h
    rw [exec_strayByte running high hunting stray, level ch after h]
  · intro b bytes ended receiver position
    obtain ⟨before, length⟩ := crcLowNext_of_before position
    exact exec_frameByte running high receiver before length
  · intro b ended receiver bad
    exact exec_badLength running high receiver (by simpa [lengthIsBad] using bad)
  · intro ch after bytes ended receiver error h
    rw [exec_brokenFrame running high receiver error, level ch after h]
  · intro bytes ended receiver
    rw [exec_framePauseTimeout running receiver]
    exact ⟨fun exceeded => by rw [if_pos exceeded], fun within => by rw [if_neg (Nat.not_lt.2 within)]⟩
  · intro b f completed wrong
    exact exec_crcError running completed wrong
  · intro b f completed good noCommand noAck
    exact exec_unknownKindFrame running completed good noCommand noAck

end Sys2Proof.Machine
end

section
/-!
SUPPORT. A response delivered, by its end or by a break; the break and what HRX lets pass while it is low.
-/

namespace Sys2Proof.Machine

section Gone

variable {s : State}

/-! ### The Command Unit freed (R162) -/

theorem State.responseGone_idle (restart : s.unit.pendingRestart = false) (ready : s.host.readySlot = none) :
    s.responseGone = { s with unit := { s.unit with responseSlot := none } } := by
  rw [State.responseGone, restart, State.takeReady, State.withUnit_host, ready]
  rfl

/-- R162: the command in the ready slot is taken. -/
theorem State.responseGone_takes {c : CommandFrame} (restart : s.unit.pendingRestart = false)
    (ready : s.host.readySlot = some c) :
    s.responseGone =
      State.takeFrame c
        { s with
          unit := { s.unit with responseSlot := none }
          host := { s.host with readySlot := none } } := by
  rw [State.responseGone, restart, State.takeReady, State.withUnit_host, ready]
  rfl

/-! ### The end of a response frame (R166, R168) -/

/-- R168: a pending rate other than the one in force takes over and clears the assembling slot. -/
theorem HostLink.switchRate_eq (h : HostLink) :
    h.switchRate =
      { h with
        rate := h.pendingRate.getD h.rate
        pendingRate := none
        receiver := if h.pendingRate.getD h.rate = h.rate then h.receiver else .hunting } := by
  obtain ⟨rate, pending⟩ := h
  cases pending with
  | none => simp [HostLink.switchRate]
  | some r =>
    by_cases same : r = rate
    · simp [HostLink.switchRate, same]
    · simp [HostLink.switchRate, same]

theorem exec_responseDelivered {f : TxFrame} (running : s.held = false) (sending : s.host.tx = some f)
    (response : f.source = .response) (run : 160000000 * f.bytes.length ≤ f.elapsed * f.rate.bps) :
    exec .responseDelivered s =
      .next (State.responseGone
        { s with
          host :=
            { s.host with
              tx := none
              pendingRate := none
              rate := s.host.pendingRate.getD s.host.rate
              receiver :=
                if s.host.pendingRate.getD s.host.rate = s.host.rate then s.host.receiver else .hunting } }) := by
  have ended : f.ended = true := by
    rw [TxFrame.ended, charTimesRun_eq]
    exact decide_eq_true run
  show execResponseDelivered s = _
  rw [execResponseDelivered, whenRunning_of_running running, sending]
  dsimp only
  rw [if_pos ⟨response, ended⟩]
  simp only [HostLink.switchRate_eq]
  rfl

/-! ### A break (R169, R170) -/

theorem exec_lineBreak_none (running : s.held = false) (undue : s.host.hrx.breakDue = false) :
    exec .lineBreak s = .next s := by
  show execLineBreak s = _
  rw [execLineBreak, running, undue]
  rfl

theorem exec_lineBreak_response (running : s.held = false) (due : s.host.hrx.breakDue = true)
    (sending : s.host.sendingResponse = true) :
    exec .lineBreak s = .next (s.withHost HostLink.break).responseGone := by
  show execLineBreak s = _
  rw [execLineBreak, running, due, sending]
  rfl

theorem exec_lineBreak_other (running : s.held = false) (due : s.host.hrx.breakDue = true)
    (other : s.host.sendingResponse = false) : exec .lineBreak s = .next (s.withHost HostLink.break) := by
  show execLineBreak s = _
  rw [execLineBreak, running, due, other]
  rfl

/-- R169: which lows are due to be declared. -/
theorem HrxLevel.breakDue_of_ms {elapsed : Nat} (ms : 16000 ≤ elapsed) : (HrxLevel.low elapsed false).breakDue = true :=
  decide_eq_true ms

theorem HrxLevel.breakDue_eq_false {level : HrxLevel} {elapsed : Nat}
    (h : level = .high ∨ level = .low elapsed true ∨ level = .low elapsed false ∧ elapsed < 16000) :
    level.breakDue = false := by
  rcases h with rfl | rfl | ⟨rfl, short⟩
  · rfl
  · rfl
  · exact decide_eq_false (Nat.not_le.2 short)

theorem HostLink.sendingResponse_of_response {h : HostLink} {f : TxFrame} (sending : h.tx = some f)
    (response : f.source = .response) : h.sendingResponse = true := by
  rw [HostLink.sendingResponse, sending]
  exact beq_iff_eq.2 response

theorem HostLink.sendingResponse_of_reports {h : HostLink} (reports : ∀ f, h.tx = some f → f.source = .report) :
    h.sendingResponse = false := by
  rw [HostLink.sendingResponse]
  cases sending : h.tx with
  | none => rfl
  | some f => dsimp only; rw [reports f sending]; rfl

/-- R170: the Host Link at the break of a low. -/
theorem HostLink.break_low {h : HostLink} {elapsed : Nat} {declared : Bool} (low : h.hrx = .low elapsed declared) :
    h.break =
      { h with
        rate := .r115200
        pendingRate := if h.sendingResponse then none else h.pendingRate
        receiver := .hunting
        hrx := .low elapsed true
        tx := none
        counters := { h.counters with breaks := satInc h.counters.breaks } } := by
  rw [HostLink.break, low]
  rfl

/-! ### HRX low (R153, R169) -/

/-- R169: while HRX is low no byte is recognised, in either state of the receiver. -/
theorem exec_byte_low (running : s.held = false) (low : s.host.hrx ≠ .high) {c : Instr} {b : Byte} {ch : RxChar}
    (byte : c ∈ [Instr.leadByte, .strayByte ch, .frameByte b, .badLength b, .brokenFrame ch, .crcError b,
      .commandFrame b, .ackFrame b, .unknownKindFrame b]) :
    exec c s = .next s := by
  have deaf := HostLink.listening_of_low low
  have nothing := HostLink.completedBy?_of_low low b
  simp only [List.mem_cons, List.not_mem_nil, or_false] at byte
  rcases byte with rfl | rfl | rfl | rfl | rfl | rfl | rfl | rfl | rfl
  · show execLeadByte s = _
    rw [execLeadByte, whenRunning_of_running running, deaf]
    cases s.host.receiver <;> rfl
  · show execStrayByte ch s = _
    rw [execStrayByte, whenRunning_of_running running, deaf]
    cases s.host.receiver <;> rfl
  · show execFrameByte b s = _
    rw [execFrameByte, whenRunning_of_running running, deaf]
    cases s.host.receiver <;> rfl
  · show execBadLength b s = _
    rw [execBadLength, whenRunning_of_running running, deaf]
    cases s.host.receiver <;> rfl
  · show execBrokenFrame ch s = _
    rw [execBrokenFrame, whenRunning_of_running running, deaf]
    cases s.host.receiver <;> rfl
  · show execCrcError b s = _
    rw [execCrcError, whenRunning_of_running running, nothing]
  · show execCommandFrame b s = _
    rw [execCommandFrame, whenRunning_of_running running, nothing]
  · show execAckFrame b s = _
    rw [execAckFrame, whenRunning_of_running running, nothing]
  · show execUnknownKindFrame b s = _
    rw [execUnknownKindFrame, whenRunning_of_running running, nothing]

end Gone

/-- Settles O32: whether the low is due decides, then what is on HTX, then the ready slot. -/
theorem breakReturnsTheLinkToItsFirstRate : Obligations.BreakReturnsTheLinkToItsFirstRate := by
  intro s broken elapsed running hbroken
  refine ⟨fun undue => exec_lineBreak_none running (HrxLevel.breakDue_eq_false undue), fun low ms => ?_, rfl,
    fun low c b ch => exec_byte_low running low⟩
  have due : s.host.hrx.breakDue = true := by rw [low]; exact HrxLevel.breakDue_of_ms ms
  rw [← satInc_eq] at hbroken
  refine ⟨fun reports => ?_, fun f freed sending response restart hfreed => ?_⟩
  · have other := HostLink.sendingResponse_of_reports reports
    rw [exec_lineBreak_other running due other, State.withHost, HostLink.break_low low, other, hbroken]
    rfl
  · have responding := HostLink.sendingResponse_of_response sending response
    rw [exec_lineBreak_response running due responding, State.withHost, HostLink.break_low low, responding,
      hfreed, hbroken]
    exact ⟨fun ready => congrArg Host.Outcome.next (State.responseGone_idle restart ready),
      fun c ready => congrArg Host.Outcome.next (State.responseGone_takes restart ready)⟩

/-- Settles O33: the frame has ended, the rate switches, and the ready slot decides what is taken. -/
theorem deliveryFreesTheCommandUnit : Obligations.DeliveryFreesTheCommandUnit := by
  intro s sent f running sending response run restart hsent
  rw [exec_responseDelivered running sending response run, hsent]
  exact ⟨fun ready => congrArg Host.Outcome.next (State.responseGone_idle restart ready),
    fun c ready => congrArg Host.Outcome.next (State.responseGone_takes restart ready)⟩

end Sys2Proof.Machine
end

section
/-!
SUPPORT. The rows of NRST and of the supply: the full reset, the entry into reset, and the device held in reset.
-/

namespace Sys2Proof.Machine

section Reset

variable {s : State}

/-! ### The full reset (R169, R183 to R185) -/

theorem HrxLevel.atReset_eq (h : HostLink) :
    HrxLevel.atReset (!h.listening) = if h.hrx = .high then .high else .low 0 false := by
  by_cases high : h.hrx = .high
  · rw [HostLink.listening_of_high high, if_pos high]
    rfl
  · rw [HostLink.listening_of_low high, if_neg high]
    rfl

/-- R185: every block at its reset values, whatever HRX stands at and whatever waits. -/
theorem State.afterReset_values (cause : ResetCause) (hrxLow : Bool) (waiting : List Instr) :
    AtResetValues cause (State.afterReset cause hrxLow waiting) := by
  refine ⟨State.station_afterReset _ _ _, rfl, ?line, ?reports, ?host, rfl, rfl, rfl, rfl⟩
  case line => exact ⟨rfl, rfl, rfl, rfl, rfl, rfl, rfl⟩
  case reports => exact ⟨rfl, rfl, rfl, rfl, rfl, rfl, rfl, rfl, rfl, rfl⟩
  case host => exact ⟨rfl, rfl, rfl, rfl, rfl, rfl, rfl⟩

/-- R169, R185: what a row that ends in a full reset leaves; a low on HRX is measured afresh. -/
theorem exists_of_fullReset {c : Instr} {cause : ResetCause} (row : exec c s = .next (s.fullReset cause)) :
    ∃ t, exec c s = .next t ∧ AtResetValues cause t ∧ t.pending = s.pending ∧
      t.host.hrx = if s.host.hrx = .high then .high else .low 0 false :=
  ⟨_, row, State.afterReset_values _ _ _, rfl, HrxLevel.atReset_eq s.host⟩

/-! ### The ends of reset (R183, R184) -/

theorem exec_nrstRelease_inRange (low : s.power.nrstLow = true) (supply : s.power.supplyInRange = true) :
    exec .nrstRelease s = .next (s.fullReset (if s.power.supplyLost then .power else .pin)) := by
  show execNrstRelease s = _
  rw [execNrstRelease, if_pos low, if_pos supply]

theorem exec_nrstRelease_outOfRange (low : s.power.nrstLow = true) (supply : s.power.supplyInRange = false) :
    exec .nrstRelease s = .next { s with power := { s.power with nrstLow := false } } := by
  show execNrstRelease s = _
  rw [execNrstRelease, if_pos low, supply]
  rfl

theorem exec_powerUp_nrstHigh (high : s.power.nrstLow = false) (supply : s.power.supplyInRange = false) :
    exec .powerUp s = .next (s.fullReset .power) := by
  show execPowerUp s = _
  rw [execPowerUp, supply, high]
  rfl

theorem exec_powerUp_nrstLow (low : s.power.nrstLow = true) (supply : s.power.supplyInRange = false) :
    exec .powerUp s = .next { s with power := { s.power with supplyInRange := true } } := by
  show execPowerUp s = _
  rw [execPowerUp, supply, if_pos low]
  rfl

/-! ### The entry into reset (R183, R184, R186) -/

theorem exec_nrstAssert_high (high : s.power.nrstLow = false) :
    exec .nrstAssert s = .next { s.abandon with power := { s.power with nrstLow := true } } := by
  show execNrstAssert s = _
  rw [execNrstAssert, high]
  rfl

theorem exec_supplyFail_inRange (supply : s.power.supplyInRange = true) :
    exec .supplyFail s =
      .next { s.abandon with power := { s.power with supplyInRange := false, supplyLost := true } } := by
  show execSupplyFail s = _
  rw [execSupplyFail, if_pos supply]

/-! ### Held in reset (R186) -/

theorem State.held_iff : s.held = true ↔ s.power.nrstLow = true ∨ s.power.supplyInRange = false := by
  simp [State.held]

/-- R186: every row but the six of NRST, of the supply and of the level of HRX acts only in a running device. -/
theorem exec_eq_whenRunning {c : Instr} (nrstAssert : c ≠ .nrstAssert) (nrstRelease : c ≠ .nrstRelease)
    (powerUp : c ≠ .powerUp) (supplyFail : c ≠ .supplyFail) (lineBreak : c ≠ .lineBreak)
    (hrxIdleReturn : c ≠ .hrxIdleReturn) : ∃ f, ∀ s, exec c s = .next (whenRunning f s) := by
  cases c with
  | nrstAssert => exact absurd rfl nrstAssert
  | nrstRelease => exact absurd rfl nrstRelease
  | powerUp => exact absurd rfl powerUp
  | supplyFail => exact absurd rfl supplyFail
  | lineBreak => exact absurd rfl lineBreak
  | hrxIdleReturn => exact absurd rfl hrxIdleReturn
  | _ => exact ⟨_, fun _ => rfl⟩

theorem exec_lineBreak_held (held : s.held = true) :
    exec .lineBreak s = .next { s with host := { s.host with hrx := .low 0 false } } := by
  show execLineBreak s = _
  rw [execLineBreak, if_pos held]
  rfl

end Reset

/-- Settles O4: the pins and the supply decide which row ends in the full reset, and with which cause. -/
theorem fullResetLeavesResetValues : Obligations.FullResetLeavesResetValues := by
  exact ⟨State.afterReset_values _ _ _, rfl, rfl,
    fun s low supply => exists_of_fullReset (exec_nrstRelease_inRange low supply),
    fun s => exec_nrstRelease_outOfRange,
    fun s high supply => exists_of_fullReset (exec_powerUp_nrstHigh high supply),
    fun s => exec_powerUp_nrstLow⟩

/-- Settles O5: the two entries abandon the work; of a held device every other row leaves all but HRX as it is. -/
theorem resetAbandonsAllWorkAndHolds : Obligations.ResetAbandonsAllWorkAndHolds := by
  rintro s abandoned rfl
  refine ⟨exec_nrstAssert_high, exec_supplyFail_inRange, fun c reset => ?_⟩
  have held : s.held = true := State.held_iff.2 reset
  refine ⟨exec_lineBreak_held held, rfl,
    fun nrstAssert nrstRelease powerUp supplyFail lineBreak hrxIdleReturn => ?_⟩
  obtain ⟨f, row⟩ := exec_eq_whenRunning nrstAssert nrstRelease powerUp supplyFail lineBreak hrxIdleReturn
  rw [row, whenRunning_of_held held]

end Sys2Proof.Machine
end

section
/-!
SUPPORT. IDENTIFY, STATUS and RESTART.
-/

namespace Sys2Proof.Machine

/-! ### IDENTIFY (R177) -/

/-- Settles O6: the six values stand in the response, and a longer body is MALFORMED. -/
theorem identifyAnswersFixedValues : Obligations.IdentifyAnswersFixedValues := by
  intro s₀ s seq takes
  refine ⟨?_, fun b rest => ?_⟩
  · exact exec_shown (name := .identify) (params := []) takes (data := identifyData) rfl
  · exact exec_refused (name := .identify) (status := .malformed) takes rfl

/-! ### STATUS (R178, R179, R198) -/

/-- R129, R178: an entry is UNSENT exactly where it is not SENT. -/
theorem SendState.beq_unsent (status : SendState) : (status == .unsent) = !status.isSent := by
  cases status <;> rfl

/-- R178, R198: the view, its counts as lengths and its counters in order. -/
theorem statusData_eq (s : State) :
    statusData s =
      [s.engine.role.code, s.reports.link.code, exchangeCode s.engine.exchange,
        natByte (s.requests.filter fun r => r.state == .waiting).length, natByte s.requests.length,
        natByte s.reports.unsentEntries.length, natByte s.reports.sentEntries.length,
        flagByte (s.fallback.limit != 0), flagByte s.fallback.pending] ++
      clockBytes s.clock ++
      [s.host.counters.crcErrors, s.host.counters.overruns, s.host.counters.brokenFrames,
        s.host.counters.badLengths, s.host.counters.strayBytes, s.host.counters.breaks,
        s.reports.unknownAcks, s.reports.retransmissions,
        s.engine.counters.callsSent, s.engine.counters.goodReplies, s.engine.counters.misses,
        s.engine.counters.contentions].flatMap halfBytes := by
  simp only [statusData, List.countP_eq_length_filter, bne, SendState.beq_unsent, Bool.not_not,
    ReportUnit.unsentEntries, ReportUnit.sentEntries, Fallback.armed, List.flatMap_cons, List.flatMap_nil,
    List.append_assoc, List.append_nil]

theorem statusData_length (s : State) : (statusData s).length = 37 := by
  simp [statusData, halfBytes, clockBytes]

theorem State.statusView_flag {flag : Byte} {clear : Bool} (known : rangeStatus flag = some clear) (s : State) :
    s.statusView [flag] = ⟨.ok, statusData s, if clear then s.clearCounters else s⟩ := by
  rw [State.statusView, checked_carried (layout := layoutStatus) rfl known]

/-- Settles O7: the view is the one the response shows, and the clear flag decides what follows it. -/
theorem statusShowsTheViewThenClears : Obligations.StatusShowsTheViewThenClears := by
  intro s₀ s seq flag view takes hview
  rw [← statusData_eq] at hview
  subst hview
  refine ⟨statusData_length s, ?_, ?_, fun notZero notOne => ?_⟩
  · rintro rfl
    exact exec_shown (name := .status) takes (State.statusView_flag (clear := false) rfl s)
  · rintro rfl
    refine (exec_row_eq .status seq [1#8] takes).trans ?_
    rw [State.perform, State.statusView_flag (clear := true) rfl s]
    rfl
  · have outOfRange : rangeStatus flag = none := by rw [rangeStatus, if_neg notZero, if_neg notOne]
    refine exec_refused (name := .status) (status := .outOfRange) takes ?_
    rw [State.perform, State.statusView, checked_outOfRange (layout := layoutStatus) rfl outOfRange]

/-! ### RESTART (R170, R182) -/

section Restart

variable {s t : State} {frame : TxFrame}

/-- R182: where a restart is pending, the full reset follows the response, with HRX at the level it stands at. -/
theorem State.responseGone_restart (restart : t.unit.pendingRestart = true)
    (level : t.host.listening = s.host.listening) (waiting : t.pending = s.pending) :
    t.responseGone = s.fullReset .restart := by
  rw [State.responseGone, if_pos restart, State.fullReset, State.fullReset, level, waiting]

theorem exec_responseDelivered_restart (running : s.held = false) (restart : s.unit.pendingRestart = true)
    (sending : s.host.tx = some frame) (response : frame.source = .response) (ended : frame.ended = true) :
    exec .responseDelivered s = .next (s.fullReset .restart) := by
  rw [TxFrame.ended, charTimesRun_eq] at ended
  rw [exec_responseDelivered running sending response (of_decide_eq_true ended)]
  exact congrArg Host.Outcome.next (State.responseGone_restart restart rfl rfl)

/-- R170: a break does not end the low it is declared in. -/
theorem HostLink.break_listening (h : HostLink) : h.break.listening = h.listening := by
  rw [HostLink.listening, HostLink.listening, HostLink.break]
  cases h.hrx <;> rfl

theorem exec_lineBreak_restart {elapsed : Nat} (running : s.held = false) (restart : s.unit.pendingRestart = true)
    (sending : s.host.tx = some frame) (response : frame.source = .response)
    (low : s.host.hrx = .low elapsed false) (ms : 16000 ≤ elapsed) :
    exec .lineBreak s = .next (s.fullReset .restart) := by
  have due : s.host.hrx.breakDue = true := by rw [low]; exact HrxLevel.breakDue_of_ms ms
  rw [exec_lineBreak_response running due (HostLink.sendingResponse_of_response sending response)]
  exact congrArg Host.Outcome.next (State.responseGone_restart restart (HostLink.break_listening s.host) rfl)

end Restart

/-- Settles O8: the command only sets the pending restart; both ends of its response give the same full reset. -/
theorem restartFollowsItsResponse : Obligations.RestartFollowsItsResponse := by
  refine ⟨fun s₀ s seq takes => ?_, fun s frame running pending sending response => ⟨fun ended => ?_, ?_⟩⟩
  · exact exec_accepted (name := .restart) (params := []) takes rfl
  · exact exists_of_fullReset (exec_responseDelivered_restart running pending sending response ended)
  · intro elapsed low ms
    obtain ⟨t, row, values, queue, level⟩ :=
      exists_of_fullReset (exec_lineBreak_restart running pending sending response low ms)
    rw [low, if_neg (by simp)] at level
    exact ⟨t, row, values, queue, level⟩

end Sys2Proof.Machine
end

section
/-!
SUPPORT. The first checks of a command: bodies with no code or an unknown one, and bodies that do not fit their layout.
-/

namespace Sys2Proof.Machine

/-! ### What a part takes off its body (R174, R197) -/

section Parts

variable {bs rest : List Byte}

theorem readByte_eq_some {b : Byte} : readByte bs = some (b, rest) ↔ bs = b :: rest := by
  cases bs <;> simp [readByte]

theorem readHalf_eq_some {h : Half} :
    readHalf bs = some (h, rest) ↔ ∃ hi lo, bs = hi :: lo :: rest ∧ halfOf hi lo = h := by
  match bs with
  | [] | [_] => simp [readHalf]
  | _ :: _ :: _ => simp [readHalf, and_comm]

/-- A counted part is as long as its length byte, the front of the body, announces. -/
theorem readCounted_length {part : List Byte} (read : readCounted bs = some (part, rest)) :
    bs.length = 1 + (bs.getD 0 0#8).toNat + rest.length := by
  cases bs with
  | nil => cases read
  | cons n tail =>
    rw [readCounted, readBytes] at read
    split at read
    · next enough =>
      cases read
      simp
      omega
    · cases read

/-- R174: an optional part takes at least its presence flag, which is 0 or 1. -/
theorem readOptional_takes {α : Type} {part : List Byte → Option (α × List Byte)} {value : Option α}
    (shortens : ∀ {x bytes behind}, part bytes = some (x, behind) → behind.length ≤ bytes.length)
    (read : readOptional part bs = some (value, rest)) :
    rest.length + 1 ≤ bs.length ∧ (bs.getD 0 0#8).toNat < 2 := by
  cases bs with
  | nil => cases read
  | cons flag tail =>
    rw [readOptional] at read
    split at read
    · next absent =>
      cases read
      subst absent
      exact ⟨Nat.le_refl _, Nat.zero_lt_two⟩
    · split at read
      · next present =>
        obtain ⟨⟨x, behind⟩, given, eq⟩ := Option.map_eq_some_iff.1 read
        cases eq
        subst present
        exact ⟨Nat.succ_le_succ (shortens given), Nat.one_lt_two⟩
      · cases read

theorem readByte_shortens {b : Byte} (read : readByte bs = some (b, rest)) : rest.length ≤ bs.length := by
  rw [readByte_eq_some.1 read]
  exact Nat.le_add_right _ 1

theorem readHalf_shortens {h : Half} (read : readHalf bs = some (h, rest)) : rest.length ≤ bs.length := by
  obtain ⟨hi, lo, rfl, -⟩ := readHalf_eq_some.1 read
  exact Nat.le_add_right _ 2

theorem readIdentity_shortens {i : Identity} (read : readIdentity bs = some (i, rest)) :
    rest.length ≤ bs.length := by
  match bs, read with
  | _ :: _ :: _ :: _, rfl => exact Nat.le_add_right _ 3

/-- R197: the body ends where its last part ends. -/
theorem atEnd_eq_some {α : Type} {value given : α} : atEnd value rest = some given ↔ rest = [] ∧ value = given := by
  cases rest <;> simp [atEnd]

end Parts

/-! ### The lengths of the layouts (R173, R197) -/

section Layouts

variable {params : List Byte}

theorem layoutStatus_length {raw : Byte} (fits : layoutStatus params = some raw) : params.length = 1 := by
  simp only [layoutStatus, Option.bind_eq_bind, Option.bind_eq_some_iff, Prod.exists, readByte_eq_some,
    atEnd_eq_some] at fits
  obtain ⟨flag, rest, rfl, rfl, -⟩ := fits
  rfl

theorem layoutAddress_length {raw : Byte} (fits : layoutAddress params = some raw) : params.length = 1 := by
  simp only [layoutAddress, Option.bind_eq_bind, Option.bind_eq_some_iff, Prod.exists, readByte_eq_some,
    atEnd_eq_some] at fits
  obtain ⟨address, rest, rfl, rfl, -⟩ := fits
  rfl

theorem layoutCancel_length {raw : Half} (fits : layoutCancel params = some raw) : params.length = 2 := by
  simp only [layoutCancel, Option.bind_eq_bind, Option.bind_eq_some_iff, Prod.exists, readHalf_eq_some,
    atEnd_eq_some] at fits
  obtain ⟨tag, rest, ⟨hi, lo, rfl, -⟩, rfl, -⟩ := fits
  rfl

theorem layoutLinkSetup_length {raw : Byte × Half} (fits : layoutLinkSetup params = some raw) :
    params.length = 3 := by
  simp only [layoutLinkSetup, Option.bind_eq_bind, Option.bind_eq_some_iff, Prod.exists, readByte_eq_some,
    readHalf_eq_some, atEnd_eq_some] at fits
  obtain ⟨rate, _, rfl, timeout, rest, ⟨hi, lo, rfl, -⟩, rfl, -⟩ := fits
  rfl

theorem layoutLineSetup_length {raw : RawLineSetup} (fits : layoutLineSetup params = some raw) :
    params.length = 7 := by
  simp only [layoutLineSetup, Option.bind_eq_bind, Option.bind_eq_some_iff, Prod.exists, readByte_eq_some,
    readHalf_eq_some, atEnd_eq_some] at fits
  obtain ⟨rate, _, rfl, gap, _, rfl, timeout, _, rfl, probe, _, ⟨p1, p0, rfl, -⟩, quiet, rest, ⟨q1, q0, rfl, -⟩,
    rfl, -⟩ := fits
  rfl

theorem layoutGet_length {raw : RawRequest} (fits : layoutGet params = some raw) : params.length = 8 := by
  simp only [layoutGet, Option.bind_eq_bind, Option.bind_eq_some_iff, Prod.exists, readByte_eq_some,
    readHalf_eq_some, atEnd_eq_some] at fits
  obtain ⟨tag, _, ⟨t1, t0, rfl, -⟩, station, _, rfl, urgency, _, rfl, allowance, _, rfl, deadline, _,
    ⟨d1, d0, rfl, -⟩, item, rest, rfl, rfl, -⟩ := fits
  rfl

theorem layoutFallbackSet_length {raw : Half × List Byte} (fits : layoutFallbackSet params = some raw) :
    params.length = 3 + (params.getD 2 0#8).toNat := by
  simp only [layoutFallbackSet, Option.bind_eq_bind, Option.bind_eq_some_iff, Prod.exists, readHalf_eq_some,
    atEnd_eq_some] at fits
  obtain ⟨limit, tail, ⟨hi, lo, rfl, -⟩, payload, rest, counted, rfl, -⟩ := fits
  have length := readCounted_length counted
  simp only [List.length_cons, List.length_nil, List.getD_cons_succ] at length ⊢
  omega

theorem layoutPut_length {raw : RawRequest} (fits : layoutPut params = some raw) :
    params.length = 8 + (params.getD 7 0#8).toNat := by
  simp only [layoutPut, Option.bind_eq_bind, Option.bind_eq_some_iff, Prod.exists, readByte_eq_some,
    readHalf_eq_some, atEnd_eq_some] at fits
  obtain ⟨tag, _, ⟨t1, t0, rfl, -⟩, station, _, rfl, urgency, _, rfl, allowance, _, rfl, deadline, tail,
    ⟨d1, d0, rfl, -⟩, payload, rest, counted, rfl, -⟩ := fits
  have length := readCounted_length counted
  simp only [List.length_cons, List.length_nil, List.getD_cons_succ] at length ⊢
  omega

theorem layoutBroadcast_length {raw : RawRequest} (fits : layoutBroadcast params = some raw) :
    params.length = 6 + (params.getD 5 0#8).toNat := by
  simp only [layoutBroadcast, Option.bind_eq_bind, Option.bind_eq_some_iff, Prod.exists, readByte_eq_some,
    readHalf_eq_some, atEnd_eq_some] at fits
  obtain ⟨tag, _, ⟨t1, t0, rfl, -⟩, urgency, _, rfl, deadline, tail, ⟨d1, d0, rfl, -⟩, payload, rest, counted,
    rfl, -⟩ := fits
  have length := readCounted_length counted
  simp only [List.length_cons, List.length_nil, List.getD_cons_succ] at length ⊢
  omega

/-- R4: the fixed part, the counted mask, and the flags of the miss limit and of the expected identity. -/
theorem layoutEnrol_length {raw : RawEnrol} (fits : layoutEnrol params = some raw) :
    9 + (params.getD 6 0#8).toNat ≤ params.length := by
  simp only [layoutEnrol, Option.bind_eq_bind, Option.bind_eq_some_iff, Prod.exists, readByte_eq_some,
    readHalf_eq_some, atEnd_eq_some] at fits
  obtain ⟨address, _, rfl, level, _, rfl, period, _, ⟨p1, p0, rfl, -⟩, length, _, rfl, mode, tail, rfl, mask, _,
    counted, limit, _, limitRead, expected, rest, expectedRead, rfl, -⟩ := fits
  have maskLength := readCounted_length counted
  obtain ⟨limitLength, -⟩ := readOptional_takes readByte_shortens limitRead
  obtain ⟨expectedLength, -⟩ := readOptional_takes readIdentity_shortens expectedRead
  simp only [List.length_cons, List.length_nil, List.getD_cons_succ] at expectedLength ⊢
  omega

/-- R6: the address, five presence flags and the mask's length byte; the level's flag is 0 or 1. -/
theorem layoutModify_length {raw : RawModify} (fits : layoutModify params = some raw) :
    7 ≤ params.length ∧ (params.getD 1 0#8).toNat < 2 := by
  simp only [layoutModify, Option.bind_eq_bind, Option.bind_eq_some_iff, Prod.exists, readByte_eq_some,
    atEnd_eq_some] at fits
  obtain ⟨address, tail, rfl, level, _, levelRead, period, _, periodRead, length, _, lengthRead, mask, _, counted,
    mode, _, modeRead, limit, rest, limitRead, rfl, -⟩ := fits
  obtain ⟨levelLength, levelFlag⟩ := readOptional_takes readByte_shortens levelRead
  obtain ⟨periodLength, -⟩ := readOptional_takes readHalf_shortens periodRead
  obtain ⟨lengthLength, -⟩ := readOptional_takes readByte_shortens lengthRead
  have maskLength := readCounted_length counted
  obtain ⟨modeLength, -⟩ := readOptional_takes readByte_shortens modeRead
  obtain ⟨limitLength, -⟩ := readOptional_takes readByte_shortens limitRead
  refine ⟨?_, levelFlag⟩
  simp only [List.length_cons, List.length_nil] at limitLength ⊢
  omega

end Layouts

/-! ### MALFORMED (R173, R176) -/

section Malformed

variable {s₀ s : State} {seq : Byte} {name : CommandName} {params : List Byte}

/-- R174: a body that its layout does not read. -/
theorem checked_malformed {ρ π : Type} {layout : List Byte → Option ρ} {range : ρ → Option π}
    {carry : π → State → Answer} (unread : ∀ raw, layout params ≠ some raw) :
    checked layout range carry params s = refuse .malformed s := by
  simp only [checked, Option.eq_none_iff_forall_ne_some.2 unread]

theorem refusalData_eq (name : CommandName) (s : State) :
    refusalData name s =
      if name ∈ [CommandName.lineSetup, .lineStart, .lineStop, .lineResume] then [s.engine.role.code] else [] := by
  cases name <;> rfl

/-- R174, R176: a command but those of the line answers a body that its layout does not read without data. -/
theorem State.perform_unread {ρ π : Type} (layout : List Byte → Option ρ) {range : ρ → Option π}
    {carry : π → State → Answer} (answer : s.perform name params = checked layout range carry params s)
    (roleless : name.carriesRole = false) (unread : ∀ raw, layout params ≠ some raw) :
    s.perform name params = ⟨.malformed, refusalData name s, s⟩ := by
  rw [answer, checked_malformed unread, refusalData, roleless]
  rfl

/-- R174: a command without parameters. -/
theorem State.perform_bare_malformed
    (bare : name ∈ [CommandName.identify, .restart, .lineStart, .lineStop, .lineResume, .roster, .queueQuery])
    (given : params ≠ []) : s.perform name params = ⟨.malformed, refusalData name s, s⟩ := by
  obtain ⟨b, rest, rfl⟩ := List.exists_cons_of_ne_nil given
  simp only [List.mem_cons, List.not_mem_nil, or_false] at bare
  rcases bare with rfl | rfl | rfl | rfl | rfl | rfl | rfl <;> rfl

/-- R174: a command of one byte. -/
theorem State.perform_single_malformed (single : name ∈ [CommandName.status, .park, .release, .stationQuery])
    (length : params.length ≠ 1) : s.perform name params = ⟨.malformed, refusalData name s, s⟩ := by
  have address : ∀ raw, layoutAddress params ≠ some raw := fun raw fits => length (layoutAddress_length fits)
  simp only [List.mem_cons, List.not_mem_nil, or_false] at single
  rcases single with rfl | rfl | rfl | rfl
  · exact State.perform_unread layoutStatus (by rw [State.perform, State.statusView]) rfl fun raw fits =>
      length (layoutStatus_length fits)
  · exact State.perform_unread layoutAddress (by rw [State.perform, State.park]) rfl address
  · exact State.perform_unread layoutAddress (by rw [State.perform, State.release]) rfl address
  · exact State.perform_unread layoutAddress (by rw [State.perform, State.stationQuery]) rfl address

theorem exec_malformed (takes : s₀.takes seq s)
    (malformed : s.perform name params = ⟨.malformed, refusalData name s, s⟩) :
    exec (name.row seq params) s₀ =
      .next (s.respond
        ⟨seq, name.code :: 0x01#8 ::
          (if name ∈ [CommandName.lineSetup, .lineStart, .lineStop, .lineResume] then [s.engine.role.code]
           else [])⟩) := by
  rw [exec_row_eq name seq params takes, malformed, ← refusalData_eq]
  rfl

/-! ### No command named (R173, R198) -/

/-- R162, R163: a frame with a sequence that is not cached is carried out by a Command Unit that is free. -/
theorem State.offer_of_takes (takes : s₀.takes seq s) (body : List Byte) :
    s₀.offer ⟨seq, body⟩ = s.carryOut ⟨seq, body⟩ := by
  obtain ⟨⟨⟨-, -, ready, response⟩, notCached⟩, rfl⟩ := takes
  rw [State.offer_of_free _ ready response, State.takeFrame, State.goodFrame_cache]
  rw [HostLink.isCached] at notCached
  cases cache : s₀.host.cache with
  | none => rfl
  | some cached =>
    rw [cache] at notCached
    exact if_neg (beq_eq_false_iff_ne.1 notCached)

theorem State.carryOut_empty (seq : Byte) (s : State) :
    s.carryOut ⟨seq, []⟩ = s.respond ⟨seq, [0x00#8, 0x01#8]⟩ := rfl

theorem State.carryOut_unknown {code : Byte} (unknown : commandCodes.contains code = false) (seq : Byte)
    (rest : List Byte) (s : State) : s.carryOut ⟨seq, code :: rest⟩ = s.respond ⟨seq, [code, 0x02#8]⟩ := by
  have unnamed : CommandName.ofCode? code = none := by
    rw [← Option.isNone_iff_eq_none, CommandName.ofCode?_isNone, unknown]
    rfl
  rw [State.carryOut, State.answer, unnamed]
  rfl

theorem exec_commandCodeUnknown_takes {body : List Byte} (takes : s₀.takes seq s)
    (unknown : ∀ code rest, body = code :: rest → commandCodes.contains code = false) :
    exec (.commandCodeUnknown seq body) s₀ = .next (s.carryOut ⟨seq, body⟩) := by
  have ⟨⟨⟨running, high, _, _⟩, _⟩, _⟩ := takes
  rw [exec_commandCodeUnknown running high (namesNoCommand_of_not_code unknown), State.offer_of_takes takes]

end Malformed

/-- Settles O27: bodies that name no command, then each layout with the length it asks for. -/
theorem badBodiesAreRefused : Obligations.BadBodiesAreRefused := by
  intro s₀ s seq takes
  refine ⟨?empty, fun code rest unknown => ?unknown, fun name params wrong => exec_malformed takes ?layout⟩
  case empty =>
    rw [exec_commandCodeUnknown_takes takes (by simp), State.carryOut_empty]
    rfl
  case unknown =>
    rw [exec_commandCodeUnknown_takes takes (by rintro _ _ ⟨⟩; exact unknown), State.carryOut_unknown unknown]
    rfl
  case layout =>
    rcases wrong with ⟨bare, given⟩ | ⟨single, length⟩ | ⟨rfl, length⟩ | ⟨rfl, length⟩ | ⟨rfl, length⟩ |
      ⟨rfl, length⟩ | ⟨rfl, length⟩ | ⟨rfl, length⟩ | ⟨rfl, length⟩ | ⟨rfl, length⟩ | ⟨rfl, length⟩
    · exact State.perform_bare_malformed bare given
    · exact State.perform_single_malformed single length
    · exact State.perform_unread layoutLinkSetup (by rw [State.perform, State.linkSetup]) rfl fun raw fits =>
        length (layoutLinkSetup_length fits)
    · exact congrArg Answer.withRole (checked_malformed fun raw fits => length (layoutLineSetup_length fits))
    · exact State.perform_unread layoutGet (by rw [State.perform, State.get]) rfl fun raw fits =>
        length (layoutGet_length fits)
    · exact State.perform_unread layoutCancel (by rw [State.perform, State.cancel]) rfl fun raw fits =>
        length (layoutCancel_length fits)
    · exact State.perform_unread layoutFallbackSet (by rw [State.perform, State.fallbackSet]) rfl fun raw fits => by
        have := layoutFallbackSet_length fits
        omega
    · exact State.perform_unread layoutPut (by rw [State.perform, State.put]) rfl fun raw fits => by
        have := layoutPut_length fits
        omega
    · exact State.perform_unread layoutBroadcast (by rw [State.perform, State.broadcast]) rfl fun raw fits => by
        have := layoutBroadcast_length fits
        omega
    · exact State.perform_unread layoutEnrol (by rw [State.perform, State.enrol]) rfl fun raw fits => by
        have := layoutEnrol_length fits
        omega
    · exact State.perform_unread layoutModify (by rw [State.perform, State.modify]) rfl fun raw fits => by
        have := layoutModify_length fits
        omega

end Sys2Proof.Machine
end

section
/-!
SUPPORT. FALLBACK_SET, and the expiry of the silence timer it sets.
-/

namespace Sys2Proof.Machine

/-! ### What FALLBACK_SET reads (R174, R175, R188) -/

theorem nonEmpty?_eq (bytes : List Byte) : nonEmpty? bytes = if bytes = [] then none else some bytes := by
  cases bytes <;> simp [nonEmpty?]

theorem layoutFallbackSet_parts (hi lo : Byte) {n : Byte} {payload : List Byte} (length : payload.length = n.toNat) :
    layoutFallbackSet (hi :: lo :: n :: payload) = some (halfOf hi lo, payload) := by
  have counted := readCounted_cons length []
  rw [List.append_nil] at counted
  simp [layoutFallbackSet, readHalf, counted, atEnd]

/-- R188: a limit of 0 or within its range, and a payload of at most 32 bytes. -/
theorem rangeFallbackSet_eq_some {raw : Half × List Byte} {p : FallbackParams} :
    rangeFallbackSet raw = some p ↔
      (raw.1.toNat = 0 ∨ 100 ≤ raw.1.toNat ∧ raw.1.toNat ≤ 60000) ∧ raw.2.length ≤ 32 ∧
        p = ⟨raw.1.toNat, nonEmpty? raw.2⟩ := by
  obtain ⟨limit, payload⟩ := raw
  have off : limit = 0#16 ↔ limit.toNat = 0 := BitVec.toNat_inj.symm
  rw [rangeFallbackSet]
  dsimp only
  split
  · next zero =>
    simp only [Option.bind_eq_bind, Option.bind_eq_some_iff, inRange_some, Option.some.injEq]
    simp [off.1 zero, eq_comm]
  · next armed =>
    simp only [Option.bind_eq_bind, Option.bind_eq_some_iff, inRange_some, Option.some.injEq]
    simp [mt off.2 armed, and_assoc, eq_comm]

/-! ### What FALLBACK_SET stores (R188, R189) -/

/-- R189: the silence timer is stopped out of MASTER and with fallback pending. -/
theorem Fallback.timer_of_fits {g : LineEngine} {f : Fallback} (fits : f.fits g = true)
    (stopped : ¬ (g.role = .master ∧ f.pending = false)) : f.timer = none := by
  cases timer : f.timer with
  | none => rfl
  | some start => exact absurd (Fallback.runs_of_fits fits (by rw [timer]; rfl)).2 stopped

/-- R188: where the silence timer is not restarted it is stopped, by an off limit or already before the command. -/
theorem State.setFallback_eq {s : State} (fits : s.fallback.fits s.engine = true) (p : FallbackParams) :
    s.setFallback p =
      { s with
        fallback :=
          { s.fallback with
            limit := p.limit
            payload := p.payload
            timer :=
              if s.engine.role = .master ∧ s.fallback.pending = false ∧ p.limit ≠ 0 then some s.clock
              else none } } := by
  unfold State.setFallback
  dsimp only
  by_cases off : p.limit = 0
  · simp [Fallback.armed, State.withFallback, off]
  · have armed : Fallback.armed { s.fallback with limit := p.limit, payload := p.payload } = true :=
      bne_iff_ne.2 off
    rw [State.withFallback_fallback, if_pos armed, State.restartSilence_eq]
    by_cases runs : s.engine.role = .master ∧ s.fallback.pending = false
    · simp [State.withFallback, off, runs]
    · have notRestarted : ¬ (p.limit ≠ 0 ∧ s.engine.role = .master ∧ s.fallback.pending = false) :=
        fun ⟨_, restarts⟩ => runs restarts
      have stopped : ¬ (s.engine.role = .master ∧ s.fallback.pending = false ∧ p.limit ≠ 0) :=
        fun ⟨role, calm, _⟩ => runs ⟨role, calm⟩
      rw [if_neg stopped, ← Fallback.timer_of_fits fits runs]
      exact congrArg (fun f => ({ s with fallback := f } : State)) (if_neg notRestarted)

/-- Settles O10: the limit and the payload are read, judged, and stored, and the timer follows them. -/
theorem fallbackSetStoresLimitAndPayload : Obligations.FallbackSetStoresLimitAndPayload := by
  intro s₀ s seq hi lo n payload ms takes hms length fits
  have layout := layoutFallbackSet_parts hi lo length
  have limit : (halfOf hi lo).toNat = ms := by rw [halfOf_toNat, hms]
  refine ⟨fun range short => ?_, fun outside => ?_⟩
  · have inside : rangeFallbackSet (halfOf hi lo, payload) = some ⟨ms, nonEmpty? payload⟩ :=
      rangeFallbackSet_eq_some.2 ⟨limit.symm ▸ range, length.symm ▸ short, by rw [limit]⟩
    refine exec_accepted (name := .fallbackSet) takes ?_
    rw [State.perform, State.fallbackSet, checked_carried layout inside, State.setFallback_eq fits, nonEmpty?_eq]
  · have refused : rangeFallbackSet (halfOf hi lo, payload) = none := by
      rw [Option.eq_none_iff_forall_ne_some]
      intro p inside
      obtain ⟨range, short, -⟩ := rangeFallbackSet_eq_some.1 inside
      dsimp only at range short
      omega
    refine exec_refused (name := .fallbackSet) (status := .outOfRange) takes ?_
    rw [State.perform, State.fallbackSet, checked_outOfRange layout refused]

/-! ### The expiry of the silence timer (R189, R190) -/

/-- R190: fallback has become pending; the exchange in progress is still to be looked at. -/
def State.silenceExpired (s : State) : State :=
  s.withFallback fun f => { f with timer := none, pending := true }

section Expiry

variable {s : State} {start : Clock}

theorem exec_silenceTimerExpiry_early (running : s.held = false) (timing : s.fallback.timer = some start)
    (early : (s.clock - start).toNat < s.fallback.limit) : exec .silenceTimerExpiry s = .next s := by
  show execSilenceTimerExpiry s = _
  rw [execSilenceTimerExpiry, whenRunning_of_running running, timing]
  exact congrArg Host.Outcome.next (if_neg fun expired => Nat.not_le_of_lt early expired.2)

theorem exec_silenceTimerExpiry_expired (running : s.held = false) (timing : s.fallback.timer = some start)
    (master : s.engine.role = .master) (expired : s.fallback.limit ≤ (s.clock - start).toNat) :
    exec .silenceTimerExpiry s =
      .next (if s.engine.exchange.isSome then
        s.silenceExpired.withFallback fun f => { f with phase := .awaitingExchange }
      else s.silenceExpired.advanceFallback) := by
  show execSilenceTimerExpiry s = _
  rw [execSilenceTimerExpiry, whenRunning_of_running running, timing]
  exact congrArg Host.Outcome.next (if_pos ⟨master, expired⟩)

end Expiry

/-- Settles O50: the limit decides whether the timer expires, the exchange and the payload what the expiry brings. -/
theorem silenceBringsTheFallback : Obligations.SilenceBringsTheFallback := by
  intro s start running timing master
  refine ⟨exec_silenceTimerExpiry_early running timing, fun expired => ?_⟩
  rw [exec_silenceTimerExpiry_expired running timing master expired]
  refine ⟨fun busy => ?_, fun payload idle held => ?_, fun idle omitted => ?_⟩
  · rw [if_pos (Option.isSome_iff_ne_none.2 busy)]
    rfl
  · rw [idle, State.advanceFallback_commits (s := s.silenceExpired) held]
    exact congrArg Host.Outcome.next (if_neg Bool.false_ne_true)
  · rw [idle, State.advanceFallback_omits (s := s.silenceExpired) omitted, State.endFallback_eq,
      show s.silenceExpired.engine.role = .master from master]
    exact congrArg Host.Outcome.next (if_neg Bool.false_ne_true)

end Sys2Proof.Machine
end

section
/-!
SUPPORT. One step of the device: the command that waits, or one cycle of CLK.
-/

namespace Sys2Proof.Machine

/-! ### A step, with a command waiting and without -/

theorem step_of_waiting {s : State} {c : Instr} {rest : List Instr} (waiting : s.pending = c :: rest) :
    step s = exec c { s with pending := rest } := by
  rw [step, waiting]

theorem step_of_idle {s : State} (idle : s.pending = []) : step s = .next (s.elapse 1) := by
  rw [step, idle]

/-- Settles O1: the queue with its front command is a queue with a command waiting. -/
theorem stepRunsTheFrontCommand : Obligations.StepRunsTheFrontCommand :=
  fun _ _ _ => step_of_waiting rfl

/-! ### One cycle of CLK (R181, log 1, log 12) -/

theorem State.elapse_of_held {s : State} (held : s.held = true) (n : Nat) : s.elapse n = s := if_pos held

/-- R181: the millisecond clock after one cycle. -/
theorem msAfter_cycle (now : Clock) {subMs : Nat} (within : subMs < 16000) :
    msAfter now ((subMs + 1) / Config.cyclesPerMs) = if subMs = 15999 then now + 1 else now := by
  split
  · next last => rw [last]; rfl
  · next more =>
    have carry : (subMs + 1) / Config.cyclesPerMs = 0 := Nat.div_eq_of_lt (show subMs + 1 < 16000 by omega)
    rw [carry]
    exact BitVec.add_zero now

/-- The cycles of the present millisecond after one more. -/
theorem subMs_cycle {subMs : Nat} (within : subMs < 16000) :
    (subMs + 1) % Config.cyclesPerMs = if subMs = 15999 then 0 else subMs + 1 := by
  split
  · next last => simp [last]
  · exact Nat.mod_eq_of_lt (show subMs + 1 < 16000 by omega)

/-- Settles O2: the clock carries at the last cycle of a millisecond, and of an exchange only SENDING is measured. -/
theorem idleStepIsOneCycleOfClk : Obligations.IdleStepIsOneCycleOfClk := by
  intro s idle within
  rw [step_of_idle idle]
  refine ⟨fun held => by rw [State.elapse_of_held held], fun running => congrArg Host.Outcome.next ?_⟩
  rw [State.elapse, running, if_neg Bool.false_ne_true, msAfter_cycle _ within, subMs_cycle within]
  cases s.engine.exchange with
  | none => rfl
  | some x =>
    obtain ⟨record, phase⟩ := x
    cases phase <;> rfl

end Sys2Proof.Machine
end

section
/-!
SUPPORT. No command and no event stops the device or touches the queue of commands.
-/

namespace Sys2Proof.Machine

/-! ### The queue of commands over the shared operations -/

section Keeps

variable {s : State}

theorem whenRunning_pending {f : State → State} (keeps : (f s).pending = s.pending) :
    (whenRunning f s).pending = s.pending := by
  unfold whenRunning
  split
  · rfl
  · exact keeps

theorem checked_pending {ρ π : Type} {layout : List Byte → Option ρ} {range : ρ → Option π}
    {carry : π → State → Answer} {params : List Byte} (keeps : ∀ p, (carry p s).state.pending = s.pending) :
    (checked layout range carry params s).state.pending = s.pending :=
  checked_state (P := fun t => t.pending = s.pending) rfl fun _ p _ => keeps p

theorem bare_pending {carry : State → Answer} {params : List Byte} (keeps : (carry s).state.pending = s.pending) :
    (bare carry params s).state.pending = s.pending :=
  bare_state (P := fun t => t.pending = s.pending) rfl keeps

end Keeps

@[simp] theorem State.setFallback_pending (p : FallbackParams) (s : State) :
    (s.setFallback p).pending = s.pending := by
  unfold State.setFallback
  dsimp only
  split <;> simp

@[simp] theorem State.stopMaster_pending (s : State) : s.stopMaster.pending = s.pending := by
  unfold State.stopMaster
  repeat' split
  all_goals simp

@[simp] theorem State.fullReset_pending (cause : ResetCause) (s : State) :
    (s.fullReset cause).pending = s.pending := rfl

/-! ### Commands -/

theorem State.enrolStation_pending (p : EnrolParams) (s : State) :
    (s.enrolStation p).state.pending = s.pending := by
  unfold State.enrolStation
  split <;> simp

theorem State.modifyEntry_pending (p : ModifyParams) (s : State) :
    (s.modifyEntry p).state.pending = s.pending := by
  unfold State.modifyEntry
  split <;> simp

theorem State.parkStation_pending (a : Addr) (s : State) : (s.parkStation a).state.pending = s.pending := by
  unfold State.parkStation
  split <;> simp

theorem State.releaseStation_pending (a : Addr) (s : State) : (s.releaseStation a).state.pending = s.pending := by
  unfold State.releaseStation
  split <;> simp

theorem State.acceptRequest_pending (p : RequestParams) (s : State) :
    (s.acceptRequest p).state.pending = s.pending := by
  unfold State.acceptRequest
  repeat' split
  all_goals simp

theorem State.cancelRequest_pending (tag : Half) (s : State) :
    (s.cancelRequest tag).state.pending = s.pending := by
  unfold State.cancelRequest
  repeat' split
  all_goals simp

/-- Whatever a command does, the queue is not its business. -/
theorem State.perform_pending (name : CommandName) (params : List Byte) (s : State) :
    (s.perform name params).state.pending = s.pending := by
  cases name with
  | identify | roster | queueQuery | restart => exact bare_pending rfl
  | stationQuery | linkSetup => exact checked_pending fun _ => rfl
  | status => exact checked_pending fun clear => by cases clear <;> rfl
  | fallbackSet => exact checked_pending fun p => s.setFallback_pending p
  | lineSetup => exact checked_pending fun p => by cases s.engine.role <;> rfl
  | lineStart | lineStop | lineResume =>
    refine bare_pending ?_
    repeat' split
    all_goals simp
  | enrol => exact checked_pending fun p => s.enrolStation_pending p
  | modify => exact checked_pending fun p => s.modifyEntry_pending p
  | park => exact checked_pending fun a => s.parkStation_pending a
  | release => exact checked_pending fun a => s.releaseStation_pending a
  | put | get | broadcast => exact checked_pending fun p => s.acceptRequest_pending p
  | cancel => exact checked_pending fun tag => s.cancelRequest_pending tag

theorem State.answer_pending (body : List Byte) (s : State) : (s.answer body).state.pending = s.pending := by
  unfold State.answer
  split
  · rfl
  · split
    · rfl
    · exact s.perform_pending _ _

@[simp] theorem State.takeFrame_pending (f : CommandFrame) (s : State) : (s.takeFrame f).pending = s.pending := by
  have carried : (s.carryOut f).pending = s.pending := s.answer_pending f.body
  unfold State.takeFrame
  split
  · exact carried
  · split
    · rfl
    · exact carried

@[simp] theorem State.takeReady_pending (s : State) : s.takeReady.pending = s.pending := by
  unfold State.takeReady
  split <;> simp

@[simp] theorem State.offer_pending (f : CommandFrame) (s : State) : (s.offer f).pending = s.pending := by
  simp [State.offer]

@[simp] theorem State.receiveCommand_pending (f : CommandFrame) (s : State) :
    (s.receiveCommand f).pending = s.pending := by
  unfold State.receiveCommand
  split <;> simp

theorem hostCommand_pending (name : CommandName) (seq : Byte) (params : List Byte) (s : State) :
    (hostCommand name seq params s).pending = s.pending :=
  whenRunning_pending (s.receiveCommand_pending _)

@[simp] theorem State.responseGone_pending (s : State) : s.responseGone.pending = s.pending := by
  unfold State.responseGone
  split <;> simp

/-! ### Rows -/

/-- Settles O3: the row gives the next state; what it does to the state is done by operations that keep the queue. -/
theorem noCommandStopsTheDevice : Obligations.NoCommandStopsTheDevice := by
  intro c s
  cases c with
  | identify seq params | status seq params | restart seq params | linkSetup seq params | fallbackSet seq params
  | lineSetup seq params | lineStart seq params | lineStop seq params | lineResume seq params | enrol seq params
  | modify seq params | park seq params | release seq params | stationQuery seq params | roster seq params
  | put seq params | get seq params | broadcast seq params | cancel seq params | queueQuery seq params =>
    exact ⟨_, rfl, hostCommand_pending _ seq params s⟩
  -- rows that write registers of one block
  | strayByte _ | badLength _ | brokenFrame _ | framePauseTimeout | crcError _ | leadByte | frameByte _
  | responseFrameBegin | reportFrameBegin | reportFrameEnd | ackTimerExpiry | latenessSaturated _ | sendStart
  | callCharacterSent | telegramCharacter _ | trailingCharacter _ | framerGapReached | lrxIdleReturn
  | startBitConfirmed | lineQuietSaturated =>
    refine ⟨_, rfl, whenRunning_pending ?_⟩
    repeat' split
    all_goals rfl
  -- rows that hand on a frame with a good CRC or end a response
  | cachedResponse _ _ | commandCodeUnknown _ _ | commandFrame _ | ackFrame _ | unknownKindFrame _
  | responseDelivered =>
    refine ⟨_, rfl, whenRunning_pending ?_⟩
    repeat' split
    all_goals simp [State.withHostCounters_eq]
  -- rows that complete a request or an exchange, make a selection or move the fallback on
  | deadlineExpiry _ | dueTimeReached _ | echoReceived _ | echoTimeout | replyTimeout | telegramStart _
  | telegramFault _ | telegramPauseTimeout | telegramComplete _ | broadcastSettled | silenceTimerExpiry =>
    refine ⟨_, rfl, whenRunning_pending ?_⟩
    repeat' split
    all_goals simp
  | hrxIdleReturn => exact ⟨_, rfl, rfl⟩
  | lineBreak | nrstAssert | nrstRelease | powerUp | supplyFail =>
    refine ⟨_, rfl, ?_⟩
    repeat' split
    all_goals simp [State.abandon]

end Sys2Proof.Machine
end
